-- ==== Sys2Proof/Word.lean ====
section
/-! DEFINITION. The word types of the block (`spec/00_scope.md` R11). -/

namespace Sys2Proof

/-- A byte: 8 bits, read as a value 0 to 255 (R11). -/
abbrev Byte := BitVec 8

/-- A control register as the host reads it: 16 bits (R40). -/
abbrev Word16 := BitVec 16

/-- A frame length or a count of frame bytes: 9 bits (R24, R35, R36). -/
abbrev Len := BitVec 9

/-- The channel's error codes: opaque, 8 bits (R9, R32). -/
abbrev ChanErr := BitVec 8

end Sys2Proof
end

