-- ==== Sys2Proof/Config.lean ====
section
/-! DEFINITION. The parameters of the block (`spec/00_scope.md` R9). A parameter whose value R9 gives is a
definition; an OPEN parameter is a constant without a body, of a type whose members are exactly the values R9
admits, so that every theorem holds for each of them (log 11). -/

namespace Sys2Proof.Config

/-- `SOM`, the start-of-message byte: OPEN (R9). -/
opaque som : Byte

/-- `DEV_PC` (R9, R99). -/
def devPc : Byte := 0x01#8

/-- `DEV_DELTA` (R9, R99). -/
def devDelta : Byte := 0x02#8

/-- The five command codes are OPEN and pairwise distinct (R9): they are the images of five fixed bytes under
an unknown permutation of the bytes. Every five pairwise distinct bytes arise so. -/
opaque commandCode : Equiv.Perm Byte

/-- `CMD_GET_VERSION` (R9, R98). -/
def cmdGetVersion : Byte := commandCode 0#8

/-- `CMD_NUMHEATERS` (R9, R98). -/
def cmdNumHeaters : Byte := commandCode 1#8

/-- `CMD_SET_PWM` (R9, R98). -/
def cmdSetPwm : Byte := commandCode 2#8

/-- `CMD_FORCE_REBOOT` (R9, R98). -/
def cmdForceReboot : Byte := commandCode 3#8

/-- `CMD_FORCE_RESET` (R9, R98). -/
def cmdForceReset : Byte := commandCode 4#8

/-- `MAX_ATTEMPTS` (R9). -/
def maxAttempts : Nat := 3

/-- `RETRY_DELAY_MS` (R9). -/
def retryDelayMs : Nat := 100

/-- `TICK_MS` (R9): no rule of the model rests on it (R261). -/
def tickMs : Nat := 1

/-- `T_DLY`, in ticks (R9). -/
def tDly : Word16 := 101#16

/-- One less than `T_RD`: OPEN. `T_RD` is 1 to 65535 (R9: at least 1, below `2^TIMER_W`). -/
opaque readTimeoutPred : Fin 65535

/-- `T_RD`, in ticks (R9). -/
def tRd : Word16 := BitVec.ofNat 16 (readTimeoutPred.val + 1)

/-- `BUF_CAP` (R9, R96). -/
def bufCap : Nat := 258

/-- `REQ_LEN_SHORT` (R9). -/
def reqLenShort : Nat := 6

/-- `RESP_LEN_VERSION` (R9). -/
def respLenVersion : Nat := 10

/-- `HEATER_COUNT_OFFSET` (R9; disputed, `spec/90_conflicts.md` C2). -/
def heaterCountOffset : Nat := 4

/-- How far `RESP_LEN_NUMHEATERS` lies above its least value `HEATER_COUNT_OFFSET + 2`: OPEN (R9). -/
opaque respLenNumHeatersExtra : Fin 253

/-- `RESP_LEN_NUMHEATERS`, 6 to 258 (R9). -/
def respLenNumHeaters : Nat := heaterCountOffset + 2 + respLenNumHeatersExtra.val

/-- `VER_MAJOR_OFF` (R9). -/
def verMajorOff : Nat := 5

/-- `VER_MINOR_OFF` (R9). -/
def verMinorOff : Nat := 6

/-- `VER_BUILD_HI_OFF` (R9). -/
def verBuildHiOff : Nat := 7

/-- `VER_BUILD_LO_OFF` (R9). -/
def verBuildLoOff : Nat := 8

end Sys2Proof.Config
end

