-- ==== Sys2Proof/Machine/Frame.lean ====
section
/-! DEFINITION. The frame format and the checksum as functions of byte sequences (`spec/30_encoding.md`,
`spec/41_checksum.md`, `spec/40_frame_codec.md` R125). -/

namespace Sys2Proof.Machine

/-- `s8(b)`: the byte read as signed (R12). -/
def s8 (b : Byte) : Int := b.toInt

/-- `be16(hi, lo)` (R14): the more significant byte first (R65). -/
def be16 (hi lo : Byte) : Word16 := hi ++ lo

/-- The more significant byte of a 16-bit value. -/
def hiByte (w : Word16) : Byte := w.extractLsb' 8 8

/-- The less significant byte of a 16-bit value. -/
def loByte (w : Word16) : Byte := w.extractLsb' 0 8

/-- `Sum` over the body, an unbounded integer (R140). -/
def signedSum : List Byte → Int
  | [] => 0
  | b :: r => s8 b + signedSum r

/-- The unsigned sum `U` over the body (R141). -/
def unsignedSum : List Byte → Nat
  | [] => 0
  | b :: r => b.toNat + unsignedSum r

/-- The 8-bit wrap-around accumulator over the body (R146). -/
def accSum : List Byte → Byte
  | [] => 0
  | b :: r => b + accSum r

/-- The checksum of a body, the bytes at indices 1 to `N - 2`: `(-Sum) mod 256` (R140). -/
def bodyCksum (body : List Byte) : Byte := BitVec.ofInt 8 (-(signedSum body))

/-- The body of a sequence of `N ≥ 2` bytes: the bytes at indices 1 to `N - 2` (R18). -/
def bodyOf (f : List Byte) : List Byte := f.tail.dropLast

/-- `Cksum(f, N)` for `f` of length `N ≥ 2` (R140). -/
def cksum (f : List Byte) : Byte := bodyCksum (bodyOf f)

/-- The byte at index `i`, if the sequence has one. -/
def byteAt (f : List Byte) (i : Nat) : Option Byte := f[i]?

/-- `SomOk(f) = (f[0] = SOM)` (R125). -/
def isSomOk (f : List Byte) : Bool := byteAt f 0 == some Config.som

/-- `LenOk(f, N) = (f[1] = N - 3)`, false when `N - 3` is not in 0 to 255 (R125). -/
def isLenOk (f : List Byte) : Bool :=
  match byteAt f 1 with
  | some l => decide (l.toNat + 3 = f.length)
  | none => false

/-- `CkOk(f, N) = (f[N-1] = Cksum(f, N))` (R125). -/
def isCkOk (f : List Byte) : Bool := decide (2 ≤ f.length) && (byteAt f (f.length - 1) == some (cksum f))

/-- `WellFormed(f, N)` (R97, R125). -/
def isWellFormedFrame (f : List Byte) : Bool :=
  decide (6 ≤ f.length ∧ f.length ≤ 258) && isSomOk f && isLenOk f && isCkOk f

/-- The frame ENCODE builds, its trailer position holding 0x00 (R91, R93, R120). -/
def frameTemplate (src dst cmd : Byte) (payload : List Byte) : List Byte :=
  Config.som :: BitVec.ofNat 8 (payload.length + 3) :: src :: dst :: cmd :: (payload ++ [0x00#8])

/-- The frame of R91 with its checksum: what ENCODE and CKFILL leave. -/
def completeFrame (src dst cmd : Byte) (payload : List Byte) : List Byte :=
  let l := BitVec.ofNat 8 (payload.length + 3)
  Config.som :: l :: src :: dst :: cmd :: (payload ++ [bodyCksum (l :: src :: dst :: cmd :: payload)])

/-- The short request frame `F6` of a command, from `DEV_PC` to `DEV_DELTA` (R92, R99, R211, R215, R219, R220). -/
def requestFrame (cmd : Byte) : List Byte := completeFrame Config.devPc Config.devDelta cmd []

end Sys2Proof.Machine
end

