-- ==== Sys2Proof/Syntax.lean ====
section
/-! DEFINITION. The instructions of the block, one constructor for each row of `spec/opcode_table.json`, and the
events that carry them to the block (`spec/42_transaction.md` R161, `spec/30_encoding.md` R104, R105). -/

namespace Sys2Proof

/-- The sequencer state `SEQ` (`spec/10_state.md` R23). Codes 5 to 7 have no constructor. -/
inductive Seq where
  /-- 0: no transaction in flight; the host owns the buffers. -/
  | idle
  /-- 1: write phase, sending `TXBUF[TXIDX]`. -/
  | write
  /-- 2: read phase, waiting for byte `RXCNT` of `RXLEN`. -/
  | read
  /-- 3: check phase, response complete. -/
  | check
  /-- 4: delay phase between two attempts. -/
  | delay
deriving DecidableEq, Repr

/-- The instructions: host operations (R104), sequencer steps (R161), and command frames with the session
operations that send or read them (R105, `spec/43_session_commands.md`). -/
inductive Instr where
  /-- GET_VERSION: issue the version request (R211). -/
  | getVersion
  /-- NUMHEATERS: issue the heater-count request (R215). -/
  | numHeaters
  /-- FORCE_REBOOT: a stub (R219). -/
  | forceReboot
  /-- FORCE_RESET: a stub (R220). -/
  | forceReset
  /-- SET_PWM: a stub; its operands are those R105 names (R218, log 25). -/
  | setPwm (channel : Nat) (enabled : Bool) (period duty : Rat)
  /-- VERSION_RESP: read the version response (R212, R214). -/
  | versionResp
  /-- NUMHEATERS_RESP: read the heater-count response (R216, R217). -/
  | numHeatersResp
  /-- ENCODE `src, dst, cmd, payload` (R120). -/
  | encode (src dst cmd : Byte) (payload : List Byte)
  /-- CKFILL (R143). -/
  | ckfill
  /-- START (R163, R164, R165). -/
  | start
  /-- DECODE (R123). -/
  | decode
  /-- CKVERIFY `n` (R144). -/
  | ckverify (n : Nat)
  /-- TXWR `i, v` (R122). -/
  | txwr (i : Nat) (v : Byte)
  /-- TXRD `i` (R122). -/
  | txrd (i : Nat)
  /-- RXRD `i` (R124). -/
  | rxrd (i : Nat)
  /-- SETTXLEN `n` (R122): the 16 bits written, of which `n[8:0]` is kept (R40). -/
  | settxlen (n : Word16)
  /-- SETRXLEN `n` (R122). -/
  | setrxlen (n : Word16)
  /-- CSRRD `n` (R122): a register number, 0 to 65535 (R40). -/
  | csrrd (n : Word16)
  /-- TxAccept: the channel took a byte that is not the last (R167). -/
  | txAccept
  /-- TxAccept.last: the channel took the last byte (R168). -/
  | txAcceptLast
  /-- TxError(e) (R169). -/
  | txError (e : ChanErr)
  /-- RxByte(b) (R170). -/
  | rxByte (b : Byte)
  /-- RxError(e) (R171). -/
  | rxError (e : ChanErr)
  /-- Tick in `READ` (R172). -/
  | tickRead
  /-- Tick in `DELAY` (R173). -/
  | tickDelay
  /-- Check (R174). -/
  | check
  /-- Tick in `IDLE`, `WRITE` or `CHECK` (R177). -/
  | tickIdle
  /-- The generic version reader: a stub (R221). -/
  | readVersion
  /-- The report reader: a stub (R222). -/
  | readReport
deriving DecidableEq, Repr

/-- The session operations by name (R105, R232): the calls that have no frame of their own, and both halves of
`handshake()` and `discoverChannels()`, before and after the WAIT of their expansion. -/
inductive SessionCall where
  /-- `handshake()` up to its WAIT. -/
  | handshake
  /-- `discoverChannels()` up to its WAIT. -/
  | discoverChannels
  /-- `setPwm(channel, enabled, period, duty)`. -/
  | setPwm (channel : Nat) (enabled : Bool) (period duty : Rat)
  /-- `forceReboot()`. -/
  | forceReboot
  /-- `forceReset()`. -/
  | forceReset
  /-- The generic version reader. -/
  | readVersion
  /-- `readReport()`. -/
  | readReport
  /-- `handshake()` after its WAIT: the version response is read. -/
  | handshakeResult
  /-- `discoverChannels()` after its WAIT: the heater-count response is read. -/
  | discoverResult
deriving DecidableEq, Repr

/-- One event offered to the block: what R7 and R161 list, the host's session operations, and the three inputs
that are no instruction, the write of a control register (R40), reset (R280) and the level `CHAN_OPEN` (R38). -/
inductive Event where
  /-- A host operation word: the operation number, then its operands (log 9). -/
  | host (word : List Byte)
  /-- A command frame issued by the session (R90, log 10). -/
  | frame (bytes : List Byte)
  /-- A session operation issued by name. -/
  | session (call : SessionCall)
  /-- The channel takes the presented byte. -/
  | txAccept
  /-- The channel reports a write failure. -/
  | txError (e : ChanErr)
  /-- The channel delivers a byte. -/
  | rxByte (b : Byte)
  /-- The channel reports a read failure. -/
  | rxError (e : ChanErr)
  /-- One period of the timebase has passed. -/
  | tick
  /-- The engine's internal step. -/
  | check
  /-- The host's `x[n] <- v`, by register number (R15, R40, R60; log 26). -/
  | regWrite (n v : Word16)
  /-- The reset input. -/
  | reset
  /-- The host drives `CHAN_OPEN`. -/
  | chanOpen (level : Bool)
deriving DecidableEq, Repr

/-- What selects among the rows of one event: the table gives `TxAccept` two rows and `Tick` three, by the
sequencer state and by whether `TXIDX + 1 = TXLEN`. -/
structure RowContext where
  /-- The sequencer state. -/
  seq : Seq
  /-- Whether `TXIDX + 1 = TXLEN`. -/
  lastByte : Bool
deriving DecidableEq, Repr

end Sys2Proof
end

