-- ==== Sys2Proof/WellFormed.lean ====
section
/-! DEFINITION. Well-formed instructions: those whose operands fit the fields of a host operation word
(`spec/30_encoding.md` R104, log 9). What the block does with operands that fit but are illegal is the
instruction's meaning, not a matter of form. -/

namespace Sys2Proof

/-- The operand fits its field. A payload's count, an index and `n` of CKVERIFY have 16 bits. -/
def Instr.wellFormed : Instr → Bool
  | .encode _ _ _ payload => decide (payload.length < 65536)
  | .ckverify n => decide (n < 65536)
  | .txwr i _ => decide (i < 65536)
  | .txrd i => decide (i < 65536)
  | .rxrd i => decide (i < 65536)
  | .getVersion => true
  | .numHeaters => true
  | .forceReboot => true
  | .forceReset => true
  | .setPwm _ _ _ _ => true
  | .versionResp => true
  | .numHeatersResp => true
  | .ckfill => true
  | .start => true
  | .decode => true
  | .settxlen _ => true
  | .setrxlen _ => true
  | .csrrd _ => true
  | .txAccept => true
  | .txAcceptLast => true
  | .txError _ => true
  | .rxByte _ => true
  | .rxError _ => true
  | .tickRead => true
  | .tickDelay => true
  | .check => true
  | .tickIdle => true
  | .readVersion => true
  | .readReport => true

/-- The row of an event that the context selects (R162): TxAccept or TxAccept.last, one of the three ticks.
Every other instruction is its event's only row. -/
def Instr.selectedBy (ctx : RowContext) : Instr → Bool
  | .txAccept => !ctx.lastByte
  | .txAcceptLast => ctx.lastByte
  | .tickRead => decide (ctx.seq = .read)
  | .tickDelay => decide (ctx.seq = .delay)
  | .tickIdle => decide (ctx.seq ≠ .read ∧ ctx.seq ≠ .delay)
  | .getVersion => true
  | .numHeaters => true
  | .forceReboot => true
  | .forceReset => true
  | .setPwm _ _ _ _ => true
  | .versionResp => true
  | .numHeatersResp => true
  | .encode _ _ _ _ => true
  | .ckfill => true
  | .start => true
  | .decode => true
  | .ckverify _ => true
  | .txwr _ _ => true
  | .txrd _ => true
  | .rxrd _ => true
  | .settxlen _ => true
  | .setrxlen _ => true
  | .csrrd _ => true
  | .txError _ => true
  | .rxByte _ => true
  | .rxError _ => true
  | .check => true
  | .readVersion => true
  | .readReport => true

end Sys2Proof
end

