-- ==== Sys2Proof/Decode.lean ====
section
/-! DEFINITION. The decoder, total on any event and any bytes, and the encoder after it
(`spec/30_encoding.md` R91, R92, R104; logs 9 and 10). -/

namespace Sys2Proof

open Machine (be16 hiByte loByte isWellFormedFrame requestFrame)

/-- Why bytes or an event are no instruction. -/
inductive DecodeError where
  /-- A host operation number that R104 gives no operation (11 to 255). -/
  | noSuchOperation (op : Byte)
  /-- A host word that ends before its operands do. -/
  | shortWord
  /-- A frame that is no well-formed request from `DEV_PC` to `DEV_DELTA` (R92, R97, R99). -/
  | notARequest
  /-- A request frame with `CMD_SET_PWM`: the spec gives SET_PWM no frame (R218). -/
  | setPwmFrame
  /-- A request frame whose command code is none of the five (R98). -/
  | unknownCommand
  /-- Reset, a change of `CHAN_OPEN` or a register write by number: an input, no instruction. -/
  | notAnInstruction
deriving DecidableEq, Repr

/-- The first `n` bytes and the rest. -/
def takeBytes : Nat → List Byte → Option (List Byte × List Byte)
  | 0, rest => some ([], rest)
  | _ + 1, [] => none
  | n + 1, b :: r =>
    match takeBytes n r with
    | some (front, rest) => some (b :: front, rest)
    | none => none

/-- A 16-bit operand, big-endian (R65), handed on with the bytes after it. -/
def operand16 (k : Word16 → Instr) : List Byte → Except DecodeError (Instr × List Byte)
  | hi :: lo :: rest => .ok (k (be16 hi lo), rest)
  | _ => .error .shortWord

/-- ENCODE's operands: `src`, `dst`, `cmd`, the payload's count, the payload (R104). -/
def encodeOperands : List Byte → Except DecodeError (Instr × List Byte)
  | src :: dst :: cmd :: hi :: lo :: rest =>
    match takeBytes (be16 hi lo).toNat rest with
    | some (payload, rest') => .ok (.encode src dst cmd payload, rest')
    | none => .error .shortWord
  | _ => .error .shortWord

/-- TXWR's operands: the index, the byte (R104). -/
def txwrOperands : List Byte → Except DecodeError (Instr × List Byte)
  | hi :: lo :: v :: rest => .ok (.txwr (be16 hi lo).toNat v, rest)
  | _ => .error .shortWord

/-- The operands of a host operation by its number (R104). The write `x[n] <- v` of R15, R40 and R60 has no number
there: it is the event `Event.regWrite` and no instruction (DESIGN CHOICE, log 26). -/
def decodeOperands (op : Byte) (args : List Byte) : Except DecodeError (Instr × List Byte) :=
  match op.toNat with
  | 0 => encodeOperands args
  | 1 => .ok (.ckfill, args)
  | 2 => .ok (.start, args)
  | 3 => .ok (.decode, args)
  | 4 => operand16 (fun n => .ckverify n.toNat) args
  | 5 => txwrOperands args
  | 6 => operand16 (fun i => .txrd i.toNat) args
  | 7 => operand16 (fun i => .rxrd i.toNat) args
  | 8 => operand16 .settxlen args
  | 9 => operand16 .setrxlen args
  | 10 => operand16 .csrrd args
  | _ => .error (.noSuchOperation op)

/-- A host operation word: the number of R104, then the operands. Answers the instruction and the bytes after it. -/
def decodeHost : List Byte → Except DecodeError (Instr × List Byte)
  | [] => .error .shortWord
  | op :: args => decodeOperands op args

/-- A command frame issued by the session: the four request rows that the table encodes (R92, R211, R215, R219,
R220). -/
def decodeFrame (f : List Byte) : Except DecodeError Instr :=
  match f with
  | [_, _, src, dst, cmd, _] =>
    if isWellFormedFrame f ∧ src = Config.devPc ∧ dst = Config.devDelta then
      if cmd = Config.cmdGetVersion then .ok .getVersion
      else if cmd = Config.cmdNumHeaters then .ok .numHeaters
      else if cmd = Config.cmdForceReboot then .ok .forceReboot
      else if cmd = Config.cmdForceReset then .ok .forceReset
      else if cmd = Config.cmdSetPwm then .error .setPwmFrame
      else .error .unknownCommand
    else .error .notARequest
  | _ => .error .notARequest

/-- A session operation by name (R105, `spec/43_session_commands.md`). -/
def decodeCall : SessionCall → Instr
  | .handshake => .getVersion
  | .discoverChannels => .numHeaters
  | .setPwm channel enabled period duty => .setPwm channel enabled period duty
  | .forceReboot => .forceReboot
  | .forceReset => .forceReset
  | .readVersion => .readVersion
  | .readReport => .readReport
  | .handshakeResult => .versionResp
  | .discoverResult => .numHeatersResp

/-- The row of `Tick` by sequencer state (R172, R173, R177). -/
def tickRow : Seq → Instr
  | .read => .tickRead
  | .delay => .tickDelay
  | .idle => .tickIdle
  | .write => .tickIdle
  | .check => .tickIdle

/-- The instruction an event is, in the context that selects among its rows (R161, R162). Bytes of a host word
after its operands are padding and are dropped. -/
def decodeEvent (ctx : RowContext) : Event → Except DecodeError Instr
  | .host word =>
    match decodeHost word with
    | .ok (i, _) => .ok i
    | .error e => .error e
  | .frame bytes => decodeFrame bytes
  | .session call => .ok (decodeCall call)
  | .txAccept => .ok (if ctx.lastByte then .txAcceptLast else .txAccept)
  | .txError e => .ok (.txError e)
  | .rxByte b => .ok (.rxByte b)
  | .rxError e => .ok (.rxError e)
  | .tick => .ok (tickRow ctx.seq)
  | .check => .ok .check
  | .regWrite _ _ => .error .notAnInstruction
  | .reset => .error .notAnInstruction
  | .chanOpen _ => .error .notAnInstruction

/-! ### The encoder -/

/-- A 16-bit operand, big-endian. -/
def word16Bytes (w : Word16) : List Byte := [hiByte w, loByte w]

/-- A natural operand in 16 bits. -/
def natBytes (n : Nat) : List Byte := word16Bytes (BitVec.ofNat 16 n)

/-- The event that carries an instruction, written from R104 for a host operation and from R92 for a command
frame. The spec gives no bits to the other rows (an abstract event, a stub, a response selected by context), which
have their event or their name. -/
def encode : Instr → Event
  | .encode src dst cmd payload => .host ([0x00#8, src, dst, cmd] ++ natBytes payload.length ++ payload)
  | .ckfill => .host [0x01#8]
  | .start => .host [0x02#8]
  | .decode => .host [0x03#8]
  | .ckverify n => .host (0x04#8 :: natBytes n)
  | .txwr i v => .host (0x05#8 :: (natBytes i ++ [v]))
  | .txrd i => .host (0x06#8 :: natBytes i)
  | .rxrd i => .host (0x07#8 :: natBytes i)
  | .settxlen n => .host (0x08#8 :: word16Bytes n)
  | .setrxlen n => .host (0x09#8 :: word16Bytes n)
  | .csrrd n => .host (0x0A#8 :: word16Bytes n)
  | .getVersion => .frame (requestFrame Config.cmdGetVersion)
  | .numHeaters => .frame (requestFrame Config.cmdNumHeaters)
  | .forceReboot => .frame (requestFrame Config.cmdForceReboot)
  | .forceReset => .frame (requestFrame Config.cmdForceReset)
  | .setPwm channel enabled period duty => .session (.setPwm channel enabled period duty)
  | .versionResp => .session .handshakeResult
  | .numHeatersResp => .session .discoverResult
  | .readVersion => .session .readVersion
  | .readReport => .session .readReport
  | .txAccept => .txAccept
  | .txAcceptLast => .txAccept
  | .txError e => .txError e
  | .rxByte b => .rxByte b
  | .rxError e => .rxError e
  | .tickRead => .tick
  | .tickDelay => .tick
  | .tickIdle => .tick
  | .check => .check

/-! ### Words numbered as the opcode table numbers them -/

/-- The low `n` bytes of `w`, the least significant first. -/
def bytesLow : Nat → Nat → List Byte
  | 0, _ => []
  | n + 1, w => BitVec.ofNat 8 w :: bytesLow n (w / 256)

/-- The event of a table word of `nbits` bits. A host operation row has its number in bits 7 to 0 of the first
byte, and zeros for operands that the table gives no bits. A 48-bit frame row numbers bit 47 as bit 7 of byte 0,
the first on the wire. A word of 80 bits is the response pattern, selected by context and not by its bits. -/
def tableEvent (nbits w : Nat) : Event :=
  if nbits = 48 then .frame (bytesLow 6 w).reverse
  else if nbits = 80 then .session .handshakeResult
  else .host (bytesLow (nbits / 8) w ++ List.replicate 6 0x00#8)

/-- The instruction the decoder reads from a table word. The context matters to no row that the table gives bits. -/
def decodeTableWord (nbits w : Nat) : Option Instr :=
  match decodeEvent ⟨.idle, false⟩ (tableEvent nbits w) with
  | .ok i => some i
  | .error _ => none

end Sys2Proof
end

