-- ==== Sys2Proof/Machine/State.lean ====
section
/-! DEFINITION. The state of the block as plain data (`spec/10_state.md`), its reset value (R47), and the reasons
a step can stop. -/

namespace Sys2Proof.Machine

/-- `RESULT` (R30). Codes 5 to 7 have no constructor. -/
inductive Verdict where
  /-- 0: no transaction has completed since reset, or one is in flight. -/
  | none
  /-- 1: `OK`. -/
  | ok
  /-- 2: `FAIL_TRANSPORT`. -/
  | failTransport
  /-- 3: `FAIL_CHECKSUM`. -/
  | failChecksum
  /-- 4: `FAIL_PROTOCOL`. -/
  | failProtocol
deriving DecidableEq, Repr

/-- `CAUSE` (R31). Codes 6 and 7 have no constructor. -/
inductive Cause where
  /-- 0: no attempt has failed yet. -/
  | none
  /-- 1: `WRITE_ERR`. -/
  | writeErr
  /-- 2: `READ_ERR`. -/
  | readErr
  /-- 3: `TIMEOUT`. -/
  | timeout
  /-- 4: `BAD_PARAM`. -/
  | badParam
  /-- 5: `NOT_OPEN`. -/
  | notOpen
deriving DecidableEq, Repr

/-- A record of the diagnostic trace (R266). -/
inductive TraceRecord where
  /-- `TraceTx(a, bytes)`: what attempt `a` sends. -/
  | tx (attempt : Nat) (bytes : List Byte)
  /-- `TraceRx(a, bytes)`: what attempt `a` received. -/
  | rx (attempt : Nat) (bytes : List Byte)
deriving DecidableEq, Repr

/-- The fields DECODE returns (R123). -/
structure FrameFields where
  /-- Byte 0. -/
  som : Byte
  /-- Byte 1. -/
  length : Byte
  /-- Byte 2. -/
  src : Byte
  /-- Byte 3. -/
  dst : Byte
  /-- Byte 4. -/
  cmd : Byte
  /-- Bytes 5 to `N - 2`. -/
  payload : List Byte
  /-- Byte `N - 1`. -/
  cksum : Byte
deriving DecidableEq, Repr

/-- Version Info (R212, R230): the three numbers, unsigned. -/
structure VersionInfo where
  /-- Byte 5 of the response. -/
  major : Byte
  /-- Byte 6 of the response. -/
  minor : Byte
  /-- Bytes 7 and 8 of the response, big-endian. -/
  build : Word16
deriving DecidableEq, Repr

/-- Why an operation was not performed (R15): the reasons of the rules' "else refuse". -/
inductive RefuseReason where
  /-- The engine owns the state: `SEQ` is not `IDLE` (R43, R121, R165). -/
  | busy
  /-- ENCODE of more than 252 payload bytes (R121). -/
  | payloadTooLong
  /-- An index outside the buffer, or of a cell that holds no value for the host (R22, R62, R124). -/
  | badIndex
  /-- A cell nothing has written (R22, R122). -/
  | unwritten
  /-- A number with no control register (R40). -/
  | badRegister
  /-- A write to a read-only control register (R40). -/
  | readOnly
  /-- CKFILL with `TXLEN` outside 2 to 258 (R143), or DECODE with `RXLEN` below 6 (R123). -/
  | badLength
  /-- A response is read while `DONE` is 0 (R123, R124, R144). -/
  | notDone
  /-- A response is read as a frame while `RESULT` is not `OK` (R123). -/
  | notOk
  /-- A host operation number with no operation (R104). -/
  | noSuchOperation
deriving DecidableEq, Repr

/-- What the last host or session operation returned: the model's own field (log 7). -/
inductive HostReturn where
  /-- No operation has been issued since reset. -/
  | none
  /-- Performed; the operation returns no value. -/
  | performed
  /-- A buffer byte (R122, R124). -/
  | byte (b : Byte)
  /-- A control register (R122). -/
  | word (w : Word16)
  /-- CKVERIFY's answer (R144). -/
  | flag (b : Bool)
  /-- DECODE's answer (R123). -/
  | fields (f : FrameFields)
  /-- The version read from a response (R212): `handshake()` succeeded. -/
  | version (v : VersionInfo)
  /-- The heater count read from a response (R216): `discoverChannels()` succeeded. -/
  | heaters (n : Byte)
  /-- The session operation failed: `RESULT` is not `OK` (R214, R217). -/
  | failure
  /-- `UNSUPPORTED` (R223). -/
  | unsupported
  /-- The operation was not performed: the mark of R15. -/
  | refused (r : RefuseReason)
deriving DecidableEq, Repr

/-- What the session keeps of the responses it has read (R216, R230): software state that hangs on the command
frames (log 14). -/
structure Session where
  /-- Version Info, once the handshake has read it. -/
  versionInfo : Option VersionInfo
  /-- The heater count, once discovery has read it. -/
  heaterCount : Option Byte
deriving DecidableEq, Repr

/-- A frame buffer (`spec/20_memory.md` R60): its written cells, as (index, byte) in rising order of index. -/
abbrev Memory := List Host.Cell

/-- The state of the block. -/
structure State where
  /-- `SEQ` (R23). -/
  seq : Seq
  /-- `TXIDX` (R24). -/
  txidx : Len
  /-- `RXCNT` (R24). -/
  rxcnt : Len
  /-- `ATTEMPT` (R25). -/
  attempt : BitVec 2
  /-- `TIMER` (R26). -/
  timer : Word16
  /-- `DONE` (R29). -/
  done : Bool
  /-- `RESULT` (R30). -/
  result : Verdict
  /-- `CAUSE` (R31). -/
  cause : Cause
  /-- `ERRCODE` (R32). -/
  errcode : ChanErr
  /-- `SOM_OK` (R33). -/
  somOk : Bool
  /-- `LEN_OK` (R33). -/
  lenOk : Bool
  /-- `CK_OK` (R33). -/
  ckOk : Bool
  /-- `CK_CALC` (R34). -/
  ckCalc : Byte
  /-- `CK_ACC` (R34, R146). -/
  ckAcc : Byte
  /-- `TXLEN` (R35). -/
  txlen : Len
  /-- `RXLEN` (R36). -/
  rxlen : Len
  /-- `TXBUF` (R20). -/
  txbuf : Memory
  /-- `RXBUF` (R21). -/
  rxbuf : Memory
  /-- `CHAN_OPEN`, the level the host drives (R38). -/
  chanOpen : Bool
  /-- `TRACE` (R39), oldest record first. -/
  trace : List TraceRecord
  /-- `WIRE`, transmit side (R60): every byte the channel has accepted, oldest first (log 8). -/
  wire : List Byte
  /-- What the session has read (R230; log 14). -/
  session : Session
  /-- The return line of the host's operations: the model's own (log 7). -/
  ret : HostReturn
  /-- The events still to come, the next one first: the model's own (log 1). -/
  schedule : List Event
deriving DecidableEq, Repr

/-- The state right after reset: the table of R47. `CHAN_OPEN` is 0 until a session is opened; nothing has been
sent, returned or scheduled (logs 1, 7, 8, 14). -/
def State.reset : State where
  seq := .idle
  txidx := 0#9
  rxcnt := 0#9
  attempt := 0#2
  timer := 0#16
  done := false
  result := .none
  cause := .none
  errcode := 0#8
  somOk := false
  lenOk := false
  ckOk := false
  ckCalc := 0#8
  ckAcc := 0#8
  txlen := 0#9
  rxlen := 0#9
  txbuf := []
  rxbuf := []
  chanOpen := false
  trace := []
  wire := []
  session := ⟨none, none⟩
  ret := .none
  schedule := []

/-- The engine's own accesses that hold no meaning. No state a run can reach meets one (log 6). -/
inductive Fault where
  /-- An engine step reads a buffer cell that holds no value (R22): raised by the steps that trace or send buffer
  bytes and by Check. Safe: the model stops where nothing is known. -/
  | unwrittenCell
  /-- RxByte at `RXCNT` above 257, where no cell exists (R62). Safe: the model stops. -/
  | noSuchCell
deriving DecidableEq, Repr

/-- Why an instruction has no next state. -/
inductive Refusal where
  /-- An instruction without a meaning: raised by `exec` only. Safe. -/
  | notModelled (mnemonic : String)
  /-- The event is not enabled in this sequencer state, so it is no step of the machine (R161, R177): raised by the
  sequencer steps. Safe: nothing is claimed of such an event. -/
  | notEnabled
  /-- START or CKFILL would use a `TXBUF` cell that nothing has written (R143, R163): raised by these two. Safe: the
  hardware goes on with a byte no rule fixes, the model stops. -/
  | unwrittenCell
  /-- The schedule is empty and the engine has no step of its own (R7): raised by `step`. Safe. -/
  | noEvent
  /-- The bytes of a host word or of a frame are no instruction: raised by `step`. Safe. -/
  | undecodable (why : DecodeError)
deriving DecidableEq, Repr

end Sys2Proof.Machine
end

