-- ==== Sys2Proof/Machine/Ops.lean ====
section
/-! DEFINITION. The named operations over the buffers and the registers, and the two procedures every step ends
in: `complete`, the analogue of taking an exception (`spec/42_transaction.md` R176, `spec/60_exceptions.md` R254),
with `fail_attempt` before it (R175), and `begin_attempt` (R166), beside the clearing START does on the way back
(R163, R255). -/

namespace Sys2Proof.Machine

/-- What an instruction answers. -/
abbrev Answer := Host.Outcome State Fault Refusal

/-- One operation after another: the second runs in the state the first leaves. -/
def andThen (a : Answer) (k : State → Answer) : Answer :=
  match a with
  | .next s => k s
  | .fault r => .fault r
  | .refused r => .refused r

/-! ### Buffers -/

/-- What a cell nothing has written reads as: no value (R22). -/
def Memory.unlisted : Option Byte := none

/-- The byte a cell holds. -/
def Memory.read : Memory → Nat → Option Byte
  | [], _ => Memory.unlisted
  | (a, v) :: rest, i => if a = i then some v else Memory.read rest i

/-- Writes one cell, keeping the entries in rising order. -/
def Memory.write : Memory → Nat → Byte → Memory
  | [], i, v => [(i, v)]
  | (a, w) :: rest, i, v =>
    if i < a then (i, v) :: (a, w) :: rest
    else if i = a then (i, v) :: rest
    else (a, w) :: Memory.write rest i v

/-- Writes consecutive cells from index `i` on. -/
def Memory.writeList : Memory → Nat → List Byte → Memory
  | m, _, [] => m
  | m, i, b :: r => Memory.writeList (Memory.write m i b) (i + 1) r

/-- The `n` consecutive bytes from index `i` on, if every cell holds a value. -/
def Memory.slice : Memory → Nat → Nat → Option (List Byte)
  | _, _, 0 => some []
  | m, i, n + 1 =>
    match Memory.read m i, Memory.slice m (i + 1) n with
    | some b, some r => some (b :: r)
    | _, _ => none

/-- Indices rise strictly from `lo` and stay below `BUF_CAP`. -/
def Memory.risingFrom : Nat → Memory → Bool
  | _, [] => true
  | lo, (a, _) :: rest => decide (lo ≤ a ∧ a < Config.bufCap) && Memory.risingFrom (a + 1) rest

/-- The canonical form: equal buffers are equal lists, and no cell lies outside 0 to 257 (R20, R21). -/
def Memory.wf (m : Memory) : Bool := Memory.risingFrom 0 m

/-! ### What an operation returns, and the mark of a refusal (R15) -/

/-- The operation returns `r`; nothing else changes. -/
def State.returning (s : State) (r : HostReturn) : State := { s with ret := r }

/-- `refuse(reason)`: the operation is not performed, no state changes, the refusal is marked (R15, log 4). -/
def State.refusing (s : State) (r : RefuseReason) : State := { s with ret := .refused r }

/-! ### Updates of the command side -/

/-- `TXBUF[i] <- v` (R20). -/
def State.storeTx (s : State) (i : Nat) (v : Byte) : State := { s with txbuf := s.txbuf.write i v }

/-- A frame written from index 0 on, and `TXLEN` its length (R120). -/
def State.storeFrame (s : State) (f : List Byte) : State :=
  { s with txbuf := s.txbuf.writeList 0 f, txlen := BitVec.ofNat 9 f.length }

/-- `TXLEN <- n` (R35). -/
def State.putTxlen (s : State) (n : Len) : State := { s with txlen := n }

/-- `RXLEN <- n` (R36). -/
def State.putRxlen (s : State) (n : Len) : State := { s with rxlen := n }

/-! ### Sequencer procedures -/

/-- What START clears on both its paths: `ERRCODE`, the parser flags, `CK_CALC`, `ATTEMPT` (R163, R164). -/
def State.cleared (s : State) : State :=
  { s with
    errcode := 0#8, somOk := false, lenOk := false, ckOk := false, ckCalc := 0#8, attempt := 0#2 }

/-- START accepted, before `begin_attempt` (R163): the return from completion (R255). -/
def State.accepted (s : State) : State :=
  { s.cleared with done := false, result := .none, cause := .none }

/-- START failing at once (R164). -/
def State.startFailed (s : State) (c : Cause) : State :=
  { s.cleared with done := true, result := .failProtocol, cause := c, txidx := 0#9, rxcnt := 0#9, seq := .idle }

/-- What `begin_attempt` leaves, `bytes` being `TXBUF[0..TXLEN-1]` (R166). -/
def State.begun (s : State) (bytes : List Byte) : State :=
  { s with
    attempt := s.attempt + 1#2, txidx := 0#9, rxcnt := 0#9, seq := .write,
    trace := s.trace ++ [.tx (s.attempt.toNat + 1) bytes] }

/-- Procedure `begin_attempt()` (R166). -/
def beginAttempt (s : State) : Answer :=
  match s.txbuf.slice 0 s.txlen.toNat with
  | some bytes => .next (s.begun bytes)
  | none => .fault .unwrittenCell

/-- Procedure `complete(r)` (R176): everything else keeps its value (R254). -/
def State.complete (s : State) (r : Verdict) : State := { s with result := r, done := true, seq := .idle }

/-- What `fail_attempt` leaves, `bytes` being `RXBUF[0..RXCNT-1]` (R175). -/
def State.attemptFailed (s : State) (c : Cause) (bytes : List Byte) : State :=
  let traced : State := { s with cause := c, trace := s.trace ++ [.rx s.attempt.toNat bytes] }
  if s.attempt.toNat < Config.maxAttempts then { traced with seq := .delay, timer := Config.tDly }
  else traced.complete .failTransport

/-- Procedure `fail_attempt(c)` (R175). -/
def failAttempt (c : Cause) (s : State) : Answer :=
  match s.rxbuf.slice 0 s.rxcnt.toNat with
  | some bytes => .next (s.attemptFailed c bytes)
  | none => .fault .unwrittenCell

/-- The channel has taken the presented byte `b`: it is on the wire (R64), and `TXIDX` counts it (R24). -/
def State.sent (s : State) (b : Byte) : State :=
  { s with wire := s.wire ++ [b], txidx := BitVec.ofNat 9 (s.txidx.toNat + 1) }

/-- Entry to `READ` after the last command byte: `TIMER`, `RXCNT` and the accumulator are set (R146, R168). -/
def State.enterRead (s : State) : State :=
  { s with seq := .read, timer := Config.tRd, rxcnt := 0#9, ckAcc := 0#8 }

/-- The accumulator takes bytes at indices 1 to `RXLEN - 2` (R146). -/
def accumulate (s : State) (b : Byte) : Byte :=
  if 1 ≤ s.rxcnt.toNat ∧ s.rxcnt.toNat + 2 ≤ s.rxlen.toNat then s.ckAcc + b else s.ckAcc

/-- A received byte is stored and counted (R170). -/
def State.received (s : State) (b : Byte) : State :=
  { s with
    rxbuf := s.rxbuf.write s.rxcnt.toNat b, rxcnt := BitVec.ofNat 9 (s.rxcnt.toNat + 1),
    ckAcc := accumulate s b,
    seq := if s.rxcnt.toNat + 1 = s.rxlen.toNat then .check else s.seq }

/-- `TIMER <- n` (R172, R173). -/
def State.putTimer (s : State) (n : Word16) : State := { s with timer := n }

/-- `ERRCODE <- e` (R169, R171). -/
def State.putErrcode (s : State) (e : ChanErr) : State := { s with errcode := e }

/-- The next event is taken off the schedule, which holds `rest` after it (log 1). -/
def State.taking (s : State) (rest : List Event) : State := { s with schedule := rest }

/-! ### Inputs that are no instruction -/

/-- The reset input: every piece of the block's state takes its value of R47 (R280, R281). The level `CHAN_OPEN` is
the host's, the bytes sent stay sent, and session and schedule are not the block's (log 16). -/
def State.resetBlock (s : State) : State :=
  { State.reset with chanOpen := s.chanOpen, wire := s.wire, session := s.session, schedule := s.schedule }

/-- The host drives `CHAN_OPEN` (R38). Opening a closed channel begins a session that has read nothing yet (R283;
log 14). -/
def State.driveChanOpen (s : State) (level : Bool) : State :=
  { s with
    chanOpen := level,
    session := if level && !s.chanOpen then ⟨none, none⟩ else s.session }

/-! ### The port's outputs (R251, R263) -/

/-- `tx_valid`. -/
def txValid (s : State) : Bool := decide (s.seq = .write)

/-- `tx_data`: `TXBUF[TXIDX]` while `SEQ = WRITE`. -/
def txData (s : State) : Option Byte := if txValid s then s.txbuf.read s.txidx.toNat else none

/-- `rx_ready`. -/
def rxReady (s : State) : Bool := decide (s.seq = .read)

/-- `irq_done`. -/
def irqDone (s : State) : Bool := s.done

end Sys2Proof.Machine
end

