-- ==== Sys2Proof/Machine/Flags.lean ====
section
/-! DEFINITION. Flag computations: the parser flags of the check step (`spec/10_state.md` R33), the numeric codes
and the register images STATUS and PSTAT (R23, R30, R31, R41, R42). -/

namespace Sys2Proof.Machine

/-- `BUSY = (SEQ != IDLE)` (R28). -/
def busy (s : State) : Bool := decide (s.seq ≠ .idle)

/-- The numbers of R23. -/
def seqCode : Seq → BitVec 3
  | .idle => 0#3
  | .write => 1#3
  | .read => 2#3
  | .check => 3#3
  | .delay => 4#3

/-- The numbers of R30. -/
def verdictCode : Verdict → BitVec 3
  | .none => 0#3
  | .ok => 1#3
  | .failTransport => 2#3
  | .failChecksum => 3#3
  | .failProtocol => 4#3

/-- The numbers of R31. -/
def causeCode : Cause → BitVec 3
  | .none => 0#3
  | .writeErr => 1#3
  | .readErr => 2#3
  | .timeout => 3#3
  | .badParam => 4#3
  | .notOpen => 5#3

/-- `STATUS`, from bit 15 down: `ERRCODE`, `CAUSE`, `RESULT`, `DONE`, `BUSY` (R41). -/
def statusWord (s : State) : Word16 :=
  s.errcode ++ causeCode s.cause ++ verdictCode s.result ++ BitVec.ofBool s.done ++ BitVec.ofBool (busy s)

/-- `PSTAT`, from bit 15 down: `CK_CALC`, five zeros, `CK_OK`, `LEN_OK`, `SOM_OK` (R42). -/
def pstatWord (s : State) : Word16 :=
  s.ckCalc ++ 0#5 ++ BitVec.ofBool s.ckOk ++ BitVec.ofBool s.lenOk ++ BitVec.ofBool s.somOk

/-- What the check step writes for the response `f = RXBUF[0..RXLEN-1]`: `CK_CALC`, the parser flags, the trace
record (R33, R174). -/
def State.checked (s : State) (f : List Byte) : State :=
  { s with
    ckCalc := cksum f, somOk := isSomOk f, lenOk := isLenOk f, ckOk := isCkOk f,
    trace := s.trace ++ [.rx s.attempt.toNat f] }

/-- The verdict of the check step: `CK_OK` alone decides (R33, R174). -/
def checkVerdict (f : List Byte) : Verdict := if isCkOk f then .ok else .failChecksum

/-- The lengths START accepts (R163). -/
def legalLengths (s : State) : Bool :=
  decide (1 ≤ s.txlen.toNat ∧ s.txlen.toNat ≤ 258 ∧ 2 ≤ s.rxlen.toNat ∧ s.rxlen.toNat ≤ 258)

end Sys2Proof.Machine
end

