-- ==== Sys2Proof/Machine/Operands.lean ====
section
/-! DEFINITION. Operand forms: buffer indices, length values, register numbers with their reads and writes, and the
host's view of the response buffer (`spec/10_state.md` R22, R40, `spec/20_memory.md` R62, `spec/40_frame_codec.md` R122, R124). -/

namespace Sys2Proof.Machine

/-- An index of a buffer cell (R62). -/
def inBuffer (i : Nat) : Bool := decide (i < Config.bufCap)

/-- `n[8:0]` of a written length; bits 15 to 9 are dropped (R40, R122). -/
def lengthOperand (n : Word16) : Len := n.setWidth 9

/-- The byte of `RXBUF[i]` as the host sees it: a cell at or above `RXCNT` counts as holding no value (R22). -/
def hostRx (s : State) (i : Nat) : Option Byte := if i < s.rxcnt.toNat then s.rxbuf.read i else none

/-- `RXBUF[0..n-1]` as the host sees it (R22). -/
def hostRxFrame (s : State) (n : Nat) : Option (List Byte) :=
  if n ≤ s.rxcnt.toNat then s.rxbuf.slice 0 n else none

/-- Control register `x[n]`, unused high bits 0 (R40). -/
def csrValue (s : State) (n : Nat) : Option Word16 :=
  match n with
  | 0 => some (statusWord s)
  | 1 => some (pstatWord s)
  | 2 => some (s.txlen.setWidth 16)
  | 3 => some (s.rxlen.setWidth 16)
  | 4 => some (s.attempt.setWidth 16)
  | 5 => some (s.txidx.setWidth 16)
  | 6 => some (s.rxcnt.setWidth 16)
  | 7 => some s.timer
  | 8 => some ((seqCode s.seq).setWidth 16)
  | 9 => some Config.tRd
  | 10 => some Config.tDly
  | _ => none

/-- The host writes `TXLEN`; while a transaction is in flight the write is refused (R35, R40). -/
def State.writeTxlen (s : State) (v : Word16) : State :=
  if busy s then s.refusing .busy else (s.putTxlen (lengthOperand v)).returning .performed

/-- The host writes `RXLEN`; while a transaction is in flight the write is refused (R36, R40). -/
def State.writeRxlen (s : State) (v : Word16) : State :=
  if busy s then s.refusing .busy else (s.putRxlen (lengthOperand v)).returning .performed

/-- The host writes control register `n`: `x[n] <- v`. A write to a read-only register or to a number with no register
changes nothing and is marked a refusal (R15, R40; log 26). -/
def State.writeRegister (s : State) (n v : Word16) : State :=
  match n.toNat with
  | 2 => s.writeTxlen v
  | 3 => s.writeRxlen v
  | k => s.refusing (if k ≤ 10 then .readOnly else .badRegister)

/-- The fields of a response of at least six bytes, by position (R91, R123). -/
def frameFields : List Byte → Option FrameFields
  | som :: length :: src :: dst :: cmd :: rest =>
    match rest.getLast? with
    | some k => some ⟨som, length, src, dst, cmd, rest.dropLast, k⟩
    | none => none
  | _ => none

end Sys2Proof.Machine
end

