-- ==== Sys2Proof/Machine/Checksum.lean ====
section
/-! DEFINITION. The checksum validator's operations (`spec/41_checksum.md`). -/

namespace Sys2Proof.Machine

/-- CKFILL (R143). The trailer and the SOM are no inputs. A body cell that nothing has written stops the model
(log 5). -/
def execCkfill (s : State) : Answer :=
  if busy s then .next (s.refusing .busy)
  else if s.txlen.toNat < 2 ∨ 258 < s.txlen.toNat then .next (s.refusing .badLength)
  else
    match s.txbuf.slice 1 (s.txlen.toNat - 2) with
    | some body => .next ((s.storeTx (s.txlen.toNat - 1) (bodyCksum body)).returning .performed)
    | none => .refused .unwrittenCell

/-- CKVERIFY `n` (R144). -/
def execCkverify (n : Nat) (s : State) : Answer :=
  if busy s then .next (s.refusing .busy)
  else if !s.done then .next (s.refusing .notDone)
  else if n < 2 then .next (s.refusing .badIndex)
  else
    match hostRxFrame s n with
    | some f => .next (s.returning (.flag (isCkOk f)))
    | none => .next (s.refusing .badIndex)

end Sys2Proof.Machine
end

