-- ==== Sys2Proof/Machine/FrameCodec.lean ====
section
/-! DEFINITION. The frame codec operations (`spec/40_frame_codec.md`). -/

namespace Sys2Proof.Machine

/-- ENCODE `src, dst, cmd, payload` (R120, R121). -/
def execEncode (src dst cmd : Byte) (payload : List Byte) (s : State) : Answer :=
  if busy s then .next (s.refusing .busy)
  else if 252 < payload.length then .next (s.refusing .payloadTooLong)
  else .next ((s.storeFrame (frameTemplate src dst cmd payload)).returning .performed)

/-- TXWR `i, v` (R122). -/
def execTxwr (i : Nat) (v : Byte) (s : State) : Answer :=
  if busy s then .next (s.refusing .busy)
  else if inBuffer i then .next ((s.storeTx i v).returning .performed)
  else .next (s.refusing .badIndex)

/-- TXRD `i` (R122): allowed in every state. -/
def execTxrd (i : Nat) (s : State) : Answer :=
  if inBuffer i then
    match s.txbuf.read i with
    | some b => .next (s.returning (.byte b))
    | none => .next (s.refusing .unwritten)
  else .next (s.refusing .badIndex)

/-- SETTXLEN `n` (R122). -/
def execSettxlen (n : Word16) (s : State) : Answer := .next (s.writeTxlen n)

/-- SETRXLEN `n` (R122). -/
def execSetrxlen (n : Word16) (s : State) : Answer := .next (s.writeRxlen n)

/-- CSRRD `n` (R40, R122). -/
def execCsrrd (n : Word16) (s : State) : Answer :=
  match csrValue s n.toNat with
  | some w => .next (s.returning (.word w))
  | none => .next (s.refusing .badRegister)

/-- DECODE (R123): a pure view of `RXBUF[0..RXLEN-1]`, of which cells at and above `RXCNT` hold no value for the
host (R22, log 20). -/
def execDecode (s : State) : Answer :=
  if busy s then .next (s.refusing .busy)
  else if !s.done then .next (s.refusing .notDone)
  else if s.result ≠ .ok then .next (s.refusing .notOk)
  else if s.rxlen.toNat < 6 then .next (s.refusing .badLength)
  else
    match (hostRxFrame s s.rxlen.toNat).bind frameFields with
    | some f => .next (s.returning (.fields f))
    | none => .next (s.refusing .unwritten)

/-- RXRD `i` (R124). -/
def execRxrd (i : Nat) (s : State) : Answer :=
  if busy s then .next (s.refusing .busy)
  else if !s.done then .next (s.refusing .notDone)
  else
    match hostRx s i with
    | some b => .next (s.returning (.byte b))
    | none => .next (s.refusing .badIndex)

end Sys2Proof.Machine
end

