-- ==== Sys2Proof/Machine/Transaction.lean ====
section
/-! DEFINITION. START and the sequencer steps (`spec/42_transaction.md`). A step in a state its table row does not
name is no step of the machine (R161, R177): it is refused as not enabled (log 3). -/

namespace Sys2Proof.Machine

/-- START (R163, R164, R165). A `TXBUF` cell of the command that nothing has written stops the model (R163,
log 5). -/
def execStart (s : State) : Answer :=
  if busy s then .next (s.refusing .busy)
  else if !s.chanOpen then .next ((s.startFailed .notOpen).returning .performed)
  else if !legalLengths s then .next ((s.startFailed .badParam).returning .performed)
  else
    match s.txbuf.slice 0 s.txlen.toNat with
    | some bytes => .next ((s.accepted.begun bytes).returning .performed)
    | none => .refused .unwrittenCell

/-- TxAccept in `WRITE` with `TXIDX + 1 < TXLEN` (R167). -/
def execTxAccept (s : State) : Answer :=
  if s.seq = .write ∧ s.txidx.toNat + 1 < s.txlen.toNat then
    match txData s with
    | some b => .next (s.sent b)
    | none => .fault .unwrittenCell
  else .refused .notEnabled

/-- TxAccept in `WRITE` with `TXIDX + 1 = TXLEN` (R168). -/
def execTxAcceptLast (s : State) : Answer :=
  if s.seq = .write ∧ s.txidx.toNat + 1 = s.txlen.toNat then
    match txData s with
    | some b => .next (s.sent b).enterRead
    | none => .fault .unwrittenCell
  else .refused .notEnabled

/-- TxError(e) in `WRITE` (R169). -/
def execTxError (e : ChanErr) (s : State) : Answer :=
  if s.seq = .write then failAttempt .writeErr (s.putErrcode e) else .refused .notEnabled

/-- RxByte(b) in `READ` (R170). -/
def execRxByte (b : Byte) (s : State) : Answer :=
  if s.seq = .read then
    if inBuffer s.rxcnt.toNat then .next (s.received b) else .fault .noSuchCell
  else .refused .notEnabled

/-- RxError(e) in `READ` (R171). -/
def execRxError (e : ChanErr) (s : State) : Answer :=
  if s.seq = .read then failAttempt .readErr (s.putErrcode e) else .refused .notEnabled

/-- Tick in `READ` (R172). -/
def execTickRead (s : State) : Answer :=
  if s.seq = .read then
    if 1 < s.timer.toNat then .next (s.putTimer (s.timer - 1#16))
    else failAttempt .timeout (s.putTimer 0#16)
  else .refused .notEnabled

/-- Tick in `DELAY` (R173). -/
def execTickDelay (s : State) : Answer :=
  if s.seq = .delay then
    if 1 < s.timer.toNat then .next (s.putTimer (s.timer - 1#16))
    else beginAttempt (s.putTimer 0#16)
  else .refused .notEnabled

/-- Check in `CHECK` (R174). The table's row names the condition `RXCNT = RXLEN`, with which `CHECK` is reached. -/
def execCheck (s : State) : Answer :=
  if s.seq = .check ∧ s.rxcnt = s.rxlen then
    match s.rxbuf.slice 0 s.rxlen.toNat with
    | some f => .next ((s.checked f).complete (checkVerdict f))
    | none => .fault .unwrittenCell
  else .refused .notEnabled

/-- Tick in `IDLE`, `WRITE` and `CHECK`: nothing changes (R177). -/
def execTickIdle (s : State) : Answer :=
  if s.seq = .read ∨ s.seq = .delay then .refused .notEnabled else .next s

end Sys2Proof.Machine
end

