-- ==== Sys2Proof/Machine/Session.lean ====
section
/-! DEFINITION. Command frames and session operations (`spec/43_session_commands.md`). -/

namespace Sys2Proof.Machine

/-- The common pattern up to its WAIT (R105, R210): ENCODE from `DEV_PC` to `DEV_DELTA` without payload, CKFILL,
SETRXLEN, START (log 13). -/
def issueRequest (cmd : Byte) (respLen : Nat) (s : State) : Answer :=
  andThen (execEncode Config.devPc Config.devDelta cmd [] s) fun s =>
  andThen (execCkfill s) fun s =>
  andThen (execSetrxlen (BitVec.ofNat 16 respLen) s) execStart

/-- A response is read once the transaction has completed, by `k` when it succeeded; on any other verdict the
session operation fails (R210, R214, R217). DESIGN CHOICE (log 27): the transaction need not be that of the
operation's own request; the block keeps no record of which request began it. -/
def readResponse (s : State) (k : Answer) : Answer :=
  if busy s then .next (s.refusing .busy)
  else if !s.done then .next (s.refusing .notDone)
  else if s.result ≠ .ok then .next (s.returning .failure)
  else k

/-- `major`, `minor` and `build` at their offsets, each byte as RXRD reads it (R124, R212). -/
def readVersionInfo (s : State) : Option VersionInfo :=
  match hostRx s Config.verMajorOff, hostRx s Config.verMinorOff, hostRx s Config.verBuildHiOff,
    hostRx s Config.verBuildLoOff with
  | some major, some minor, some hi, some lo => some ⟨major, minor, be16 hi lo⟩
  | _, _, _, _ => none

/-- The version is kept as first read in a session: "immutable once read" (R213, R230). -/
def State.keepVersion (s : State) (v : VersionInfo) : State :=
  { s with session := { s.session with versionInfo := some (s.session.versionInfo.getD v) } }

/-- The heater count of the last successful discovery (R216, R231). -/
def State.keepHeaterCount (s : State) (n : Byte) : State :=
  { s with session := { s.session with heaterCount := some n } }

/-- A stub: no host operation, no byte, `UNSUPPORTED` (R218 to R223). -/
def unsupported (s : State) : Answer := .next (s.returning .unsupported)

/-- GET_VERSION: `handshake()` up to its WAIT (R105, R211). -/
def execGetVersion (s : State) : Answer := issueRequest Config.cmdGetVersion Config.respLenVersion s

/-- NUMHEATERS: `discoverChannels()` up to its WAIT (R105, R215). -/
def execNumHeaters (s : State) : Answer := issueRequest Config.cmdNumHeaters Config.respLenNumHeaters s

/-- VERSION_RESP: `handshake()` after its WAIT (R105, R212, R214). After any `OK` transaction with `RXCNT >= 9` it
sets Version Info, a NUMHEATERS or a raw START among them: DESIGN CHOICE (log 27). -/
def execVersionResp (s : State) : Answer :=
  readResponse s
    (match readVersionInfo s with
    | some v => .next ((s.keepVersion v).returning (.version v))
    | none => .next (s.refusing .badIndex))

/-- NUMHEATERS_RESP: `discoverChannels()` after its WAIT (R105, R216, R217). After any `OK` transaction with
`RXCNT >= 5` it sets the heater count, whatever request began it: DESIGN CHOICE (log 27). -/
def execNumHeatersResp (s : State) : Answer :=
  readResponse s
    (match hostRx s Config.heaterCountOffset with
    | some n => .next ((s.keepHeaterCount n).returning (.heaters n))
    | none => .next (s.refusing .badIndex))

/-- SET_PWM (R218, R223). The operands have no layout in the spec and are not used. -/
def execSetPwm (_channel : Nat) (_enabled : Bool) (_period _duty : Rat) (s : State) : Answer := unsupported s

/-- FORCE_REBOOT (R219, R223, R282). -/
def execForceReboot (s : State) : Answer := unsupported s

/-- FORCE_RESET (R220, R223, R282). -/
def execForceReset (s : State) : Answer := unsupported s

/-- The generic version reader (R221, R223). -/
def execReadVersion (s : State) : Answer := unsupported s

/-- The report reader (R222, R223). -/
def execReadReport (s : State) : Answer := unsupported s

/-! ### What software makes of a response: no part of the block, given so that the spec's examples can be checked -/

/-- `"<major>.<minor> (<build>)"`, decimal without padding (R213). -/
def versionString (v : VersionInfo) : String :=
  toString v.major.toNat ++ "." ++ toString v.minor.toNat ++ " (" ++ toString v.build.toNat ++ ")"

/-- A channel record of the registry (R231; out of scope by R5, its defaults transcribed). -/
structure HeaterChannel where
  /-- The on/off control. -/
  on : Bool
  /-- The period, 0.1 to 60. -/
  period : Rat
  /-- The duty, 1 to 100. -/
  duty : Rat
deriving DecidableEq, Repr

/-- The registry discovery allocates for a count: that many records, each off, period 1, duty 1 (R231). -/
def channelRegistry (n : Byte) : List HeaterChannel := List.replicate n.toNat ⟨false, 1, 1⟩

end Sys2Proof.Machine
end

