-- ==== Sys2Proof/Machine/Dispatch.lean ====
section
/-! DEFINITION. One arm per instruction. -/

namespace Sys2Proof.Machine

def exec (i : Instr) (s : State) : Host.Outcome State Fault Refusal :=
  match i with
  | .getVersion => Sys2Proof.Machine.execGetVersion s
  | .numHeaters => Sys2Proof.Machine.execNumHeaters s
  | .forceReboot => Sys2Proof.Machine.execForceReboot s
  | .forceReset => Sys2Proof.Machine.execForceReset s
  | .setPwm channel enabled period duty => Sys2Proof.Machine.execSetPwm channel enabled period duty s
  | .versionResp => Sys2Proof.Machine.execVersionResp s
  | .numHeatersResp => Sys2Proof.Machine.execNumHeatersResp s
  | .encode src dst cmd payload => Sys2Proof.Machine.execEncode src dst cmd payload s
  | .ckfill => Sys2Proof.Machine.execCkfill s
  | .start => Sys2Proof.Machine.execStart s
  | .decode => Sys2Proof.Machine.execDecode s
  | .ckverify n => Sys2Proof.Machine.execCkverify n s
  | .txwr j v => Sys2Proof.Machine.execTxwr j v s
  | .txrd j => Sys2Proof.Machine.execTxrd j s
  | .rxrd j => Sys2Proof.Machine.execRxrd j s
  | .settxlen n => Sys2Proof.Machine.execSettxlen n s
  | .setrxlen n => Sys2Proof.Machine.execSetrxlen n s
  | .csrrd n => Sys2Proof.Machine.execCsrrd n s
  | .txAccept => Sys2Proof.Machine.execTxAccept s
  | .txAcceptLast => Sys2Proof.Machine.execTxAcceptLast s
  | .txError e => Sys2Proof.Machine.execTxError e s
  | .rxByte b => Sys2Proof.Machine.execRxByte b s
  | .rxError e => Sys2Proof.Machine.execRxError e s
  | .tickRead => Sys2Proof.Machine.execTickRead s
  | .tickDelay => Sys2Proof.Machine.execTickDelay s
  | .check => Sys2Proof.Machine.execCheck s
  | .tickIdle => Sys2Proof.Machine.execTickIdle s
  | .readVersion => Sys2Proof.Machine.execReadVersion s
  | .readReport => Sys2Proof.Machine.execReadReport s

end Sys2Proof.Machine
end

