-- ==== Sys2Proof/Machine/Fetch.lean ====
section
/-! DEFINITION. How the next event reaches the block (`spec/00_scope.md` R7, R8; logs 1, 2, 16, 23, 26). -/

namespace Sys2Proof.Machine

/-- What the next event comes to. -/
inductive Fetched where
  /-- An instruction, and the state it runs in. -/
  | run (i : Instr) (s : State)
  /-- An input that is no instruction, and the state it leaves. -/
  | settled (s : State)
  /-- No step. -/
  | stuck (r : Refusal)
deriving DecidableEq, Repr

/-- What selects among an event's rows (R162). -/
def rowContext (s : State) : RowContext := ⟨s.seq, decide (s.txidx.toNat + 1 = s.txlen.toNat)⟩

/-- What an input that is no instruction leaves: a register write by number (R40), reset (R280), the level `CHAN_OPEN`
(R38). Every other event is no such input. -/
def takeInput (e : Event) (s : State) : Option State :=
  match e with
  | .regWrite n v => some (s.writeRegister n v)
  | .reset => some s.resetBlock
  | .chanOpen level => some (s.driveChanOpen level)
  | .host _ => none
  | .frame _ => none
  | .session _ => none
  | .txAccept => none
  | .txError _ => none
  | .rxByte _ => none
  | .rxError _ => none
  | .tick => none
  | .check => none

/-- What an event without an instruction comes to: a host operation number without an operation is refused as R15
says (R104), and anything else is no step. -/
def undecoded (why : DecodeError) (s : State) : Fetched :=
  match why with
  | .noSuchOperation _ => .settled (s.refusing .noSuchOperation)
  | .shortWord => .stuck (.undecodable why)
  | .notARequest => .stuck (.undecodable why)
  | .setPwmFrame => .stuck (.undecodable why)
  | .unknownCommand => .stuck (.undecodable why)
  | .notAnInstruction => .stuck (.undecodable why)

/-- An event offered to the block in a state whose schedule no longer holds it. -/
def offer (e : Event) (s : State) : Fetched :=
  match takeInput e s with
  | some s' => .settled s'
  | none =>
    match decodeEvent (rowContext s) e with
    | .ok i => .run i s
    | .error why => undecoded why s

/-- The next event. With none scheduled, only the engine's own Check can be taken (R161); otherwise the block
waits (R180, R280). -/
def fetch (s : State) : Fetched :=
  match s.schedule with
  | e :: rest => offer e (s.taking rest)
  | [] => if s.seq = .check then .run .check s else .stuck .noEvent

/-- The state in which the next step runs the instruction of a table word. The response pattern of 80 bits lies in
`RXBUF`, where a completed transaction has left it (R212, log 10). -/
def placeWord (s : State) (nbits w : Nat) : State :=
  let s' := { s with schedule := tableEvent nbits w :: s.schedule }
  if nbits = 80 then
    { s' with
      seq := .idle, done := true, result := .ok, rxcnt := 10#9,
      rxbuf := Memory.writeList [] 0 (bytesLow 10 w).reverse }
  else s'

end Sys2Proof.Machine
end

