-- ==== Sys2Proof/Machine/Step.lean ====
section
/-! DEFINITION. One step: one event (`spec/00_scope.md` R7). -/

namespace Sys2Proof.Machine

/-- One step of the machine. -/
def step (s : State) : Host.Outcome State Fault Refusal :=
  match fetch s with
  | .run i s' => exec i s'
  | .settled s' => .next s'
  | .stuck r => .refused r

/-- The state in which the next step fetches the table word `w` of `nbits` bits and runs it. -/
def State.withFetchWord (s : State) (nbits w : Nat) : State := placeWord s nbits w

end Sys2Proof.Machine
end

