-- ==== Sys2Proof/Safety.lean ====
section
/-! DEFINITION. What counts as a good state and a good run, in the terms the claims use. -/

namespace Sys2Proof.Machine

/-- Both buffers are in canonical form (R20, R21). -/
def BuffersWf (s : State) : Prop := s.txbuf.wf = true ∧ s.rxbuf.wf = true

/-- What the accumulator holds after `bytes` have been stored in a read of `n` bytes: the sum of those at indices
1 to `n - 2` (R146). -/
def accOf (bytes : List Byte) (n : Nat) : Byte := accSum ((bytes.take (n - 1)).drop 1)

/-- The invariants of `spec/10_state.md` R24 to R33, with what the sequencer rules keep beside them. R24's bounds
hold while a transaction is in flight: an idle host may change the length registers (log 19). -/
structure Inv (s : State) : Prop where
  /-- The buffers are in canonical form. -/
  buffers : BuffersWf s
  /-- The bytes counted by `RXCNT` are in `RXBUF` (R24). -/
  counted : ∃ bytes, s.rxbuf.slice 0 s.rxcnt.toNat = some bytes
  /-- In flight: legal lengths, a complete command, an attempt number 1 to 3, no verdict yet, no flag set
  (R25, R29, R30, R33, R34, R163). -/
  inFlight : s.seq ≠ .idle →
    legalLengths s = true ∧ (∃ bytes, s.txbuf.slice 0 s.txlen.toNat = some bytes) ∧ 1 ≤ s.attempt.toNat ∧
      s.done = false ∧ s.result = .none ∧ s.somOk = false ∧ s.lenOk = false ∧ s.ckOk = false ∧ s.ckCalc = 0#8
  /-- In `WRITE` a byte is still to be sent and none has been received (R24). -/
  writing : s.seq = .write → s.txidx.toNat < s.txlen.toNat ∧ s.rxcnt = 0#9
  /-- In `READ` the command is sent, a byte is still to come, and the timer runs (R24, R26, R172). -/
  reading : s.seq = .read →
    s.txidx = s.txlen ∧ s.rxcnt.toNat < s.rxlen.toNat ∧ 1 ≤ s.timer.toNat ∧ s.timer.toNat ≤ Config.tRd.toNat
  /-- In `CHECK` the response is complete (R24). -/
  checking : s.seq = .check → s.txidx = s.txlen ∧ s.rxcnt = s.rxlen
  /-- In `DELAY` attempt 1 or 2 has failed, the timer runs, and the counters are where the attempt left them, within
  their bounds (R24, R26, R31, R173). -/
  delaying : s.seq = .delay →
    s.attempt.toNat < 3 ∧ s.cause ≠ .none ∧ 1 ≤ s.timer.toNat ∧ s.timer.toNat ≤ Config.tDly.toNat ∧
      s.txidx.toNat ≤ s.txlen.toNat ∧ s.rxcnt.toNat ≤ s.rxlen.toNat
  /-- The accumulator follows the stored bytes (R146). -/
  streamed : s.seq = .read ∨ s.seq = .check →
    ∀ bytes, s.rxbuf.slice 0 s.rxcnt.toNat = some bytes → s.ckAcc = accOf bytes s.rxlen.toNat
  /-- Idle: `DONE` is set exactly when there is a verdict (R29, R30). -/
  verdict : s.seq = .idle → (s.done = true ↔ s.result ≠ .none)
  /-- `FAIL_TRANSPORT` only after three attempts, the last cause being one of the three (R30, R31, R179). -/
  transport : s.result = .failTransport →
    s.attempt.toNat = 3 ∧ (s.cause = .writeErr ∨ s.cause = .readErr ∨ s.cause = .timeout)
  /-- `FAIL_PROTOCOL` only of a START that made no attempt (R30, R31). -/
  protocol : s.result = .failProtocol →
    s.attempt = 0#2 ∧ s.rxcnt = 0#9 ∧ (s.cause = .badParam ∨ s.cause = .notOpen)
  /-- `OK` exactly with a matching trailer, `FAIL_CHECKSUM` exactly without, each of an attempt that was made
  (R30, R33). -/
  checksum : s.result = .ok ∨ s.result = .failChecksum →
    1 ≤ s.attempt.toNat ∧ (s.ckOk = true ↔ s.result = .ok)

/-- The records of `n` finished attempts that each sent `req`: `TraceTx(1)`, `TraceRx(1)`, …, `TraceTx(n)`,
`TraceRx(n)` (R179, R266). -/
inductive Rounds (req : List Byte) : Nat → List TraceRecord → Prop where
  /-- No attempt. -/
  | zero : Rounds req 0 []
  /-- One more attempt. -/
  | succ {n : Nat} {t : List TraceRecord} (bytes : List Byte) :
      Rounds req n t → Rounds req (n + 1) (t ++ [.tx (n + 1) req, .rx (n + 1) bytes])

/-- What a transaction begun at trace `before`, sending `req`, has added to the trace: a full pair of records for
each finished attempt, and the opening record of an attempt still running (R166, R175, R179). -/
def TraceSince (before : List TraceRecord) (req : List Byte) (s : State) : Prop :=
  match s.seq with
  | .idle => ∃ t, s.trace = before ++ t ∧ Rounds req s.attempt.toNat t
  | .delay => ∃ t, s.trace = before ++ t ∧ Rounds req s.attempt.toNat t
  | _ =>
    ∃ t n, s.trace = before ++ t ++ [.tx (n + 1) req] ∧ s.attempt.toNat = n + 1 ∧ Rounds req n t

/-- Whether the next step is a `Tick` that `READ` or `DELAY` counts (R26). -/
def countsTick (s : State) : Bool :=
  (decide (s.seq = .read) || decide (s.seq = .delay)) && (s.schedule.head? == some .tick)

/-- How many ticks `READ` and `DELAY` count in the next `k` steps, up to the end of the transaction. -/
def ticksServed : Nat → State → Nat
  | 0, _ => 0
  | k + 1, s =>
    if s.seq = .idle then 0
    else
      match step s with
      | .next t => (if countsTick s then 1 else 0) + ticksServed k t
      | .fault _ => 0
      | .refused _ => 0

/-- A channel that takes `n` bytes in a row (R178). -/
def accepts (n : Nat) : List Event := List.replicate n .txAccept

/-- A timebase that ticks `n` times in a row. -/
def ticks (n : Nat) : List Event := List.replicate n .tick

/-- A channel that delivers the bytes `r` in a row (R178). -/
def delivers (r : List Byte) : List Event := r.map .rxByte

/-- `Merged es n q`: `q` holds the events `es` in their order with `n` ticks anywhere among, before or after them
(R178, "in any interleaving"). -/
inductive Merged : List Event → Nat → List Event → Prop where
  /-- No event and no tick. -/
  | nil : Merged [] 0 []
  /-- The next of the events comes. -/
  | event {es q : List Event} {n : Nat} (e : Event) : Merged es n q → Merged (e :: es) n (e :: q)
  /-- A tick comes. -/
  | tick {es q : List Event} {n : Nat} : Merged es n q → Merged es (n + 1) (.tick :: q)

/-- `k` steps of the machine. -/
def run (k : Nat) (s : State) : Answer := Host.Core.run Sys2Proof.core k s

/-- The same outcome with its next state changed by `f`. -/
def mapNext (f : State → State) (a : Answer) : Answer :=
  match a with
  | .next s => .next (f s)
  | .fault r => .fault r
  | .refused r => .refused r

/-- The instructions that issue a START (R105, R163): the only ones that sample `CHAN_OPEN` (R38). -/
def opensTransaction : Instr → Bool
  | .start => true
  | .getVersion => true
  | .numHeaters => true
  | _ => false

/-- The next event of the schedule is the reset input. -/
def nextIsReset (s : State) : Bool := s.schedule.head? == some .reset

end Sys2Proof.Machine
end

