-- ==== Sys2Proof/Certificates/Slice0/Obligations.lean ====
section
/-! DEFINITION. The statements for the provers. Each docstring names the rule of `spec/` it formalises; where a
clause speaks of a field that is the model's own (`ret`, `schedule`, `wire`, `session`) it names the log entry. -/

open Sys2Proof Sys2Proof.Machine

/-! ### Encoding -/

/-- R92, R104, R161, R162: the event an instruction is encoded as is read back as that instruction, every operand at
every value its field admits, in a context that selects its row. The layout of operands is the model's (log 9). -/
def Obligations.EncodedInstructionDecodesBack : Prop :=
  ∀ (ctx : RowContext) (i : Instr), i.wellFormed = true → i.selectedBy ctx = true →
    decodeEvent ctx (encode i) = .ok i

/-- R104: a host operation word is read without regard to the bytes after it, and they are handed on (log 9). -/
def Obligations.HostWordIsReadUpToItsEnd : Prop :=
  ∀ (i : Instr) (w rest : List Byte), i.wellFormed = true → encode i = .host w →
    decodeHost (w ++ rest) = .ok (i, rest)

/-- R92, R97, R98, R99, R104, R218: whatever the decoder reads as a host operation is that operation's own encoding,
no bit of it dropped (log 9). A frame that decodes is the request frame of its row. Every other frame is rejected by
name: one that is no well-formed six bytes from `DEV_PC` to `DEV_DELTA`, a SET_PWM request, a request with a code
that is none of the five. That frames are decoded at all, and the names, are the model's (log 10). -/
def Obligations.WordsAndFramesHaveOneReading : Prop :=
  (∀ (w rest : List Byte) (i : Instr), decodeHost w = .ok (i, rest) →
    i.wellFormed = true ∧ ∃ w', encode i = .host w' ∧ w = w' ++ rest) ∧
  (∀ (f : List Byte) (i : Instr), decodeFrame f = .ok i →
    encode i = .frame f ∧ ∃ c : Byte, f = [Config.som, 0x03#8, 0x01#8, 0x02#8, c, 250#8 - c] ∧
      ((i = .getVersion ∧ c = Config.cmdGetVersion) ∨ (i = .numHeaters ∧ c = Config.cmdNumHeaters) ∨
        (i = .forceReboot ∧ c = Config.cmdForceReboot) ∨ (i = .forceReset ∧ c = Config.cmdForceReset))) ∧
  (∀ f : List Byte,
    ¬(f.length = 6 ∧ isWellFormedFrame f = true ∧ f[2]? = some 0x01#8 ∧ f[3]? = some 0x02#8) →
      decodeFrame f = .error .notARequest) ∧
  ∀ c : Byte,
    (c = Config.cmdSetPwm →
      decodeFrame [Config.som, 0x03#8, 0x01#8, 0x02#8, c, 250#8 - c] = .error .setPwmFrame) ∧
    (c ≠ Config.cmdGetVersion → c ≠ Config.cmdNumHeaters → c ≠ Config.cmdForceReboot →
      c ≠ Config.cmdForceReset → c ≠ Config.cmdSetPwm →
        decodeFrame [Config.som, 0x03#8, 0x01#8, 0x02#8, c, 250#8 - c] = .error .unknownCommand)

/-- R104: every operation number decodes as tabled, its operands all zeros; a number from 11 on decodes to nothing,
whatever follows it. That zeros stand where the operands are read is the model's layout (log 9). -/
def Obligations.OperationNumbersDecodeAsTabled : Prop :=
  (decodeTableWord 8 0 = some (.encode 0 0 0 []) ∧ decodeTableWord 8 1 = some .ckfill ∧
    decodeTableWord 8 2 = some .start ∧ decodeTableWord 8 3 = some .decode ∧
    decodeTableWord 8 4 = some (.ckverify 0) ∧ decodeTableWord 8 5 = some (.txwr 0 0) ∧
    decodeTableWord 8 6 = some (.txrd 0) ∧ decodeTableWord 8 7 = some (.rxrd 0) ∧
    decodeTableWord 8 8 = some (.settxlen 0) ∧ decodeTableWord 8 9 = some (.setrxlen 0) ∧
    decodeTableWord 8 10 = some (.csrrd 0)) ∧
  (∀ w : Nat, 11 ≤ w → w < 256 → decodeTableWord 8 w = none) ∧
  ∀ (op : Byte) (args : List Byte), 11 ≤ op.toNat → decodeHost (op :: args) = .error (.noSuchOperation op)

/-- R15, R104: a host operation number from 11 on has no operation: the refusal is marked (log 4) and nothing else
changes but the schedule. -/
def Obligations.UnusedOperationNumberChangesNothing : Prop :=
  ∀ (s : State) (op : Byte) (args : List Byte) (rest : List Event), 11 ≤ op.toNat →
    s.schedule = .host (op :: args) :: rest →
      step s = .next { s with schedule := rest, ret := .refused .noSuchOperation }

/-! ### Checksum -/

/-- R140: the checksum is the negated sum of the bytes at indices 1 to `N - 2`, each read as signed, modulo 256. -/
def Obligations.ChecksumIsTheNegatedSignedSum : Prop :=
  ∀ f : List Byte, 2 ≤ f.length →
    ((cksum f).toNat : Int) =
      (-(((List.range (f.length - 2)).map fun i => (f.getD (i + 1) 0#8).toInt).sum)) % 256

/-- R141: a byte read as signed differs from it by 0 or 256, so signed and unsigned sums are congruent modulo 256,
and either gives the checksum. -/
def Obligations.SignedAndUnsignedChecksumAgree : Prop :=
  (∀ b : Byte, s8 b = b.toNat ∨ s8 b = (b.toNat : Int) - 256) ∧
    ∀ body : List Byte,
      (signedSum body - (unsignedSum body : Int)) % 256 = 0 ∧
        (bodyCksum body).toNat = (256 - unsignedSum body % 256) % 256

/-- R142: for bodies of a frame within `BUF_CAP` the sums stay in the stated ranges, partial sums too, and an 8-bit
wrap-around accumulator gives the same checksum. -/
def Obligations.SumsFitSixteenBits : Prop :=
  ∀ (body : List Byte) (n : Nat), body.length ≤ 256 →
    -32768 ≤ signedSum (body.take n) ∧ signedSum (body.take n) ≤ 32512 ∧ unsignedSum (body.take n) ≤ 65280 ∧
      bodyCksum body = 0#8 - accSum body

/-- R145: the checksum, and no other byte, brings the sum to 0 modulo 256; a frame passes exactly when its bytes
at indices 1 to `N - 1` add to 0 modulo 256. -/
def Obligations.ChecksumAloneZeroesTheSum : Prop :=
  (∀ (body : List Byte) (k : Byte),
    ((unsignedSum body + k.toNat) % 256 = 0 ↔ k = bodyCksum body) ∧
      ((signedSum body + k.toNat) % 256 = 0 ↔ k = bodyCksum body)) ∧
    ∀ f : List Byte, 2 ≤ f.length → (isCkOk f = true ↔ unsignedSum f.tail % 256 = 0)

/-- R146: when the response is complete, the streaming accumulator gives the checksum of it. -/
def Obligations.AccumulatorGivesTheChecksum : Prop :=
  ∀ (s : State) (f : List Byte), Inv s → s.seq = .check → s.rxbuf.slice 0 s.rxlen.toNat = some f →
    (cksum f).toNat = (256 - s.ckAcc.toNat) % 256

/-- R147: the checksum reads neither the first nor the last byte, and a second CKFILL changes nothing. -/
def Obligations.ChecksumIsRecomputable : Prop :=
  (∀ (a a' k k' : Byte) (body : List Byte), cksum (a :: (body ++ [k])) = cksum (a' :: (body ++ [k']))) ∧
    ∀ s t : State, exec .ckfill s = .next t → exec .ckfill t = .next t

/-- R148: a frame that passes and is changed at one index from 1 to `N - 1` fails. -/
def Obligations.SingleCorruptionIsDetected : Prop :=
  ∀ (f g : List Byte) (j : Nat), 2 ≤ f.length → g.length = f.length → isCkOk f = true → 1 ≤ j → j < f.length →
    f[j]? ≠ g[j]? → (∀ i, i ≠ j → f[i]? = g[i]?) → isCkOk g = false

/-- R149: what the checksum does not detect: a changed first byte, changes that add to a multiple of 256, a
reordered body, a frame of zeros after the first byte. -/
def Obligations.UndetectedChanges : Prop :=
  (∀ (a a' : Byte) (r : List Byte), isCkOk (a :: r) = isCkOk (a' :: r)) ∧
    (∀ f g : List Byte, f.length = g.length → unsignedSum f.tail % 256 = unsignedSum g.tail % 256 →
      isCkOk f = isCkOk g) ∧
      (∀ (a k : Byte) (body body' : List Byte), body.Perm body' →
        isCkOk (a :: (body ++ [k])) = isCkOk (a :: (body' ++ [k]))) ∧
        ∀ (a : Byte) (n : Nat), isCkOk (a :: List.replicate (n + 1) 0x00#8) = true

/-- R15, R143: CKFILL writes the checksum of the command into its last byte and changes nothing else; without its
precondition it is refused. R143 has one "else refuse": that the first two refusals are a next state with a mark
(log 4, DEDUCED) and the third, a body cell without a value, is a stop (log 5, DEDUCED) is the model's reading. -/
def Obligations.CkfillWritesTheTrailer : Prop :=
  ∀ s : State,
    (∀ body, s.seq = .idle → 2 ≤ s.txlen.toNat → s.txlen.toNat ≤ 258 →
      s.txbuf.slice 1 (s.txlen.toNat - 2) = some body →
        ∃ m : Memory, exec .ckfill s = .next { s with txbuf := m, ret := .performed } ∧
          m.read (s.txlen.toNat - 1) = some (bodyCksum body) ∧
            ∀ a, a ≠ s.txlen.toNat - 1 → m.read a = s.txbuf.read a) ∧
      (s.seq ≠ .idle → exec .ckfill s = .next { s with ret := .refused .busy }) ∧
      (s.seq = .idle → ¬(2 ≤ s.txlen.toNat ∧ s.txlen.toNat ≤ 258) →
        exec .ckfill s = .next { s with ret := .refused .badLength }) ∧
      (s.seq = .idle → 2 ≤ s.txlen.toNat → s.txlen.toNat ≤ 258 →
        s.txbuf.slice 1 (s.txlen.toNat - 2) = none → exec .ckfill s = .refused .unwrittenCell)

/-- R144: CKVERIFY compares the trailer of the first `n` received bytes with their checksum and changes nothing;
after a check step, asked for the whole response, it answers whether the verdict is `OK`. -/
def Obligations.CkverifyComparesTheTrailer : Prop :=
  (∀ (s : State) (n : Nat) (f : List Byte) (k : Byte), s.seq = .idle → s.done = true → 2 ≤ n →
    n ≤ s.rxcnt.toNat → s.rxbuf.slice 0 n = some f → f[n - 1]? = some k →
      exec (.ckverify n) s = .next { s with ret := .flag (decide (k = cksum f)) }) ∧
    (∀ (s : State) (n : Nat), ¬(s.seq = .idle ∧ s.done = true ∧ 2 ≤ n ∧ n ≤ s.rxcnt.toNat) →
      ∃ r, exec (.ckverify n) s = .next { s with ret := .refused r }) ∧
    ∀ s t : State, 2 ≤ s.rxlen.toNat → exec .check s = .next t →
      (t.result = .ok ∨ t.result = .failChecksum) ∧
        exec (.ckverify s.rxlen.toNat) t = .next { t with ret := .flag (decide (t.result = .ok)) }

/-! ### Frame codec -/

/-- R120: ENCODE lays the frame out, sets `TXLEN` and changes nothing else. -/
def Obligations.EncodeBuildsTheFrame : Prop :=
  ∀ (s : State) (src dst cmd : Byte) (payload : List Byte), s.seq = .idle → payload.length ≤ 252 →
    ∃ m : Memory,
      exec (.encode src dst cmd payload) s =
        .next { s with txbuf := m, txlen := BitVec.ofNat 9 (payload.length + 6), ret := .performed } ∧
      m.read 0 = some Config.som ∧ m.read 1 = some (BitVec.ofNat 8 (payload.length + 3)) ∧
      m.read 2 = some src ∧ m.read 3 = some dst ∧ m.read 4 = some cmd ∧
      (∀ j, j < payload.length → m.read (5 + j) = payload[j]?) ∧
      m.read (payload.length + 5) = some 0x00#8 ∧
      ∀ a, payload.length + 6 ≤ a → m.read a = s.txbuf.read a

/-- R15, R121: ENCODE is refused while the engine owns `TXBUF` and for more than 252 payload bytes; nothing is
written. That both refusals are a next state with a mark in `ret` is the model's reading (log 4, DEDUCED). -/
def Obligations.EncodeRefusals : Prop :=
  ∀ (s : State) (src dst cmd : Byte) (payload : List Byte),
    (s.seq ≠ .idle → exec (.encode src dst cmd payload) s = .next { s with ret := .refused .busy }) ∧
      (s.seq = .idle → 252 < payload.length →
        exec (.encode src dst cmd payload) s = .next { s with ret := .refused .payloadTooLong })

/-- R15, R40, R122: TXWR, TXRD, SETTXLEN, SETRXLEN, CSRRD and the host's register write by number, each with its
refusals. That a refusal (busy, an index out of range, an unwritten cell, no such register, a read-only register) is a
next state with a mark in `ret` is the model's reading (log 4, DEDUCED). That the register write is an event and no
instruction is the model's choice (log 26). -/
def Obligations.RawAccessToTheCommandSide : Prop :=
  ∀ s : State,
    (∀ (i : Nat) (v : Byte),
      (s.seq = .idle → i ≤ 257 →
        ∃ m : Memory, exec (.txwr i v) s = .next { s with txbuf := m, ret := .performed } ∧
          m.read i = some v ∧ ∀ a, a ≠ i → m.read a = s.txbuf.read a) ∧
      (¬(s.seq = .idle ∧ i ≤ 257) → ∃ r, exec (.txwr i v) s = .next { s with ret := .refused r })) ∧
    (∀ i : Nat,
      (∀ b, i ≤ 257 → s.txbuf.read i = some b → exec (.txrd i) s = .next { s with ret := .byte b }) ∧
      (258 ≤ i ∨ s.txbuf.read i = none → ∃ r, exec (.txrd i) s = .next { s with ret := .refused r })) ∧
    (∀ n : Word16,
      (s.seq = .idle →
        exec (.settxlen n) s = .next { s with txlen := n.extractLsb' 0 9, ret := .performed } ∧
          exec (.setrxlen n) s = .next { s with rxlen := n.extractLsb' 0 9, ret := .performed }) ∧
      (s.seq ≠ .idle →
        exec (.settxlen n) s = .next { s with ret := .refused .busy } ∧
          exec (.setrxlen n) s = .next { s with ret := .refused .busy })) ∧
    (∀ n : Word16,
      (∀ w, csrValue s n.toNat = some w → exec (.csrrd n) s = .next { s with ret := .word w }) ∧
      (11 ≤ n.toNat → exec (.csrrd n) s = .next { s with ret := .refused .badRegister })) ∧
    ∀ (n v : Word16) (rest : List Event), s.schedule = .regWrite n v :: rest →
      (n = 2#16 → s.seq = .idle →
        step s = .next { s with schedule := rest, txlen := v.extractLsb' 0 9, ret := .performed }) ∧
      (n = 3#16 → s.seq = .idle →
        step s = .next { s with schedule := rest, rxlen := v.extractLsb' 0 9, ret := .performed }) ∧
      (n = 2#16 ∨ n = 3#16 → s.seq ≠ .idle →
        step s = .next { s with schedule := rest, ret := .refused .busy }) ∧
      (n ≠ 2#16 → n ≠ 3#16 → n.toNat ≤ 10 →
        step s = .next { s with schedule := rest, ret := .refused .readOnly }) ∧
      (11 ≤ n.toNat → step s = .next { s with schedule := rest, ret := .refused .badRegister })

/-- R23, R30, R31, R40, R41, R42: what each control register reads as, bit by bit. -/
def Obligations.RegistersReadAsTabled : Prop :=
  ∀ s : State,
    (∃ w : Word16, exec (.csrrd 0#16) s = .next { s with ret := .word w } ∧
      w.getLsbD 0 = decide (s.seq ≠ .idle) ∧ w.getLsbD 1 = s.done ∧ w.extractLsb' 2 3 = verdictCode s.result ∧
        w.extractLsb' 5 3 = causeCode s.cause ∧ w.extractLsb' 8 8 = s.errcode) ∧
    (∃ w : Word16, exec (.csrrd 1#16) s = .next { s with ret := .word w } ∧
      w.getLsbD 0 = s.somOk ∧ w.getLsbD 1 = s.lenOk ∧ w.getLsbD 2 = s.ckOk ∧ w.extractLsb' 3 5 = 0#5 ∧
        w.extractLsb' 8 8 = s.ckCalc) ∧
    exec (.csrrd 2#16) s = .next { s with ret := .word (BitVec.ofNat 16 s.txlen.toNat) } ∧
    exec (.csrrd 3#16) s = .next { s with ret := .word (BitVec.ofNat 16 s.rxlen.toNat) } ∧
    exec (.csrrd 4#16) s = .next { s with ret := .word (BitVec.ofNat 16 s.attempt.toNat) } ∧
    exec (.csrrd 5#16) s = .next { s with ret := .word (BitVec.ofNat 16 s.txidx.toNat) } ∧
    exec (.csrrd 6#16) s = .next { s with ret := .word (BitVec.ofNat 16 s.rxcnt.toNat) } ∧
    exec (.csrrd 7#16) s = .next { s with ret := .word s.timer } ∧
    exec (.csrrd 8#16) s = .next { s with ret := .word (BitVec.ofNat 16 (seqCode s.seq).toNat) } ∧
    exec (.csrrd 9#16) s = .next { s with ret := .word Config.tRd } ∧
    exec (.csrrd 10#16) s = .next { s with ret := .word 101#16 } ∧
    (seqCode .idle = 0 ∧ seqCode .write = 1 ∧ seqCode .read = 2 ∧ seqCode .check = 3 ∧ seqCode .delay = 4) ∧
    (verdictCode .none = 0 ∧ verdictCode .ok = 1 ∧ verdictCode .failTransport = 2 ∧
      verdictCode .failChecksum = 3 ∧ verdictCode .failProtocol = 4) ∧
    (causeCode .none = 0 ∧ causeCode .writeErr = 1 ∧ causeCode .readErr = 2 ∧ causeCode .timeout = 3 ∧
      causeCode .badParam = 4 ∧ causeCode .notOpen = 5)

/-- R123: DECODE returns the fields of the response by position and changes nothing; without its precondition it
is refused with a mark. A response length set anew above `RXCNT` is outside the first clause (log 20). -/
def Obligations.DecodeReturnsTheFields : Prop :=
  (∀ (s : State) (f : List Byte), s.seq = .idle → s.done = true → s.result = .ok → 6 ≤ s.rxlen.toNat →
    s.rxlen.toNat ≤ s.rxcnt.toNat → s.rxbuf.slice 0 s.rxlen.toNat = some f →
      ∃ v : FrameFields, exec .decode s = .next { s with ret := .fields v } ∧
        f[0]? = some v.som ∧ f[1]? = some v.length ∧ f[2]? = some v.src ∧ f[3]? = some v.dst ∧
        f[4]? = some v.cmd ∧ v.payload.length = s.rxlen.toNat - 6 ∧
        (∀ j, j < v.payload.length → v.payload[j]? = f[5 + j]?) ∧ f[s.rxlen.toNat - 1]? = some v.cksum) ∧
    ∀ s : State, ¬(s.seq = .idle ∧ s.done = true ∧ s.result = .ok ∧ 6 ≤ s.rxlen.toNat) →
      ∃ r, exec .decode s = .next { s with ret := .refused r }

/-- R124: RXRD returns a received byte once the transaction is over, and is refused with a mark otherwise. -/
def Obligations.RxrdReturnsReceivedBytes : Prop :=
  (∀ (s : State) (i : Nat) (b : Byte), s.seq = .idle → s.done = true → i < s.rxcnt.toNat →
    s.rxbuf.read i = some b → exec (.rxrd i) s = .next { s with ret := .byte b }) ∧
    ∀ (s : State) (i : Nat), ¬(s.seq = .idle ∧ s.done = true ∧ i < s.rxcnt.toNat) →
      ∃ r, exec (.rxrd i) s = .next { s with ret := .refused r }

/-- R126: ENCODE and then CKFILL leave a well-formed frame that reads back by position. -/
def Obligations.EncodedFrameIsWellFormed : Prop :=
  ∀ (s : State) (src dst cmd : Byte) (payload : List Byte), s.seq = .idle → payload.length ≤ 252 →
    ∃ (t u : State) (f : List Byte), exec (.encode src dst cmd payload) s = .next t ∧ exec .ckfill t = .next u ∧
      u.txbuf.slice 0 (payload.length + 6) = some f ∧ isWellFormedFrame f = true ∧ f[2]? = some src ∧
      f[3]? = some dst ∧ f[4]? = some cmd ∧ (∀ j, j < payload.length → f[5 + j]? = payload[j]?) ∧
      f[payload.length + 5]? = some (cksum f)

/-! ### START -/

/-- R22, R163: an accepted START clears the verdict and begins attempt 1; if a cell of the command holds no value the
model refuses. That this refusal is a stop and no next state with a mark is the model's reading (log 5, DEDUCED). -/
def Obligations.StartAccepted : Prop :=
  ∀ s : State, s.seq = .idle → s.chanOpen = true → 1 ≤ s.txlen.toNat → s.txlen.toNat ≤ 258 →
    2 ≤ s.rxlen.toNat → s.rxlen.toNat ≤ 258 →
    (∀ bytes, s.txbuf.slice 0 s.txlen.toNat = some bytes →
      exec .start s = .next { s with
        done := false, result := .none, cause := .none, errcode := 0#8, somOk := false, lenOk := false,
        ckOk := false, ckCalc := 0#8, attempt := 1#2, txidx := 0#9, rxcnt := 0#9, seq := .write,
        trace := s.trace ++ [.tx 1 bytes], ret := .performed }) ∧
      (s.txbuf.slice 0 s.txlen.toNat = none → exec .start s = .refused .unwrittenCell)

/-- R164: a START outside a session or with illegal lengths fails at once; `NOT_OPEN` goes before `BAD_PARAM`. -/
def Obligations.StartFailsAtOnce : Prop :=
  ∀ s : State, s.seq = .idle →
    ¬(s.chanOpen = true ∧ 1 ≤ s.txlen.toNat ∧ s.txlen.toNat ≤ 258 ∧ 2 ≤ s.rxlen.toNat ∧ s.rxlen.toNat ≤ 258) →
      exec .start s = .next { s with
        done := true, result := .failProtocol, errcode := 0#8,
        cause := if s.chanOpen then .badParam else .notOpen, somOk := false, lenOk := false, ckOk := false,
        ckCalc := 0#8, attempt := 0#2, txidx := 0#9, rxcnt := 0#9, ret := .performed }

/-- R165: a START while a transaction is in flight changes nothing; it is marked a refusal (log 4). -/
def Obligations.StartWhileBusyChangesNothing : Prop :=
  ∀ s : State, s.seq ≠ .idle → exec .start s = .next { s with ret := .refused .busy }

/-! ### Sequencer steps -/

/-- R167: the channel takes a byte that is not the last: `TXIDX` counts it. The byte also goes on the model's record
of the wire (log 8). -/
def Obligations.TxAcceptCountsTheByte : Prop :=
  ∀ (s : State) (b : Byte), s.seq = .write → s.txidx.toNat + 1 < s.txlen.toNat →
    s.txbuf.read s.txidx.toNat = some b →
      exec .txAccept s = .next { s with txidx := s.txidx + 1#9, wire := s.wire ++ [b] }

/-- R146, R168: the channel takes the last byte: the read phase begins with a full timer and a clear accumulator.
The byte also goes on the model's record of the wire (log 8). -/
def Obligations.LastAcceptBeginsTheRead : Prop :=
  ∀ (s : State) (b : Byte), s.seq = .write → s.txidx.toNat + 1 = s.txlen.toNat →
    s.txbuf.read s.txidx.toNat = some b →
      exec .txAcceptLast s = .next { s with
        txidx := s.txlen, seq := .read, timer := Config.tRd, rxcnt := 0#9, ckAcc := 0#8, wire := s.wire ++ [b] }

/-- R169, R175, R176: a write error ends the attempt; attempts 1 and 2 are followed by the delay, attempt 3 by
`FAIL_TRANSPORT`. -/
def Obligations.TxErrorEndsTheAttempt : Prop :=
  ∀ (s : State) (e : ChanErr) (bytes : List Byte), s.seq = .write →
    s.rxbuf.slice 0 s.rxcnt.toNat = some bytes →
    (s.attempt.toNat < 3 → exec (.txError e) s = .next { s with
      errcode := e, cause := .writeErr, trace := s.trace ++ [.rx s.attempt.toNat bytes], seq := .delay,
      timer := Config.tDly }) ∧
    (s.attempt.toNat = 3 → exec (.txError e) s = .next { s with
      errcode := e, cause := .writeErr, trace := s.trace ++ [.rx 3 bytes], result := .failTransport,
      done := true, seq := .idle })

/-- R146, R170: a received byte is stored at `RXCNT` and counted, and the last one completes the read. The accumulator
takes those at indices 1 to `RXLEN - 2`: R146 allows that form and the model holds it (log 18, DEDUCED). -/
def Obligations.RxByteIsStored : Prop :=
  ∀ (s : State) (b : Byte), s.seq = .read → s.rxcnt.toNat ≤ 257 →
    ∃ m : Memory, exec (.rxByte b) s = .next { s with
        rxbuf := m, rxcnt := s.rxcnt + 1#9,
        ckAcc := if 1 ≤ s.rxcnt.toNat ∧ s.rxcnt.toNat + 2 ≤ s.rxlen.toNat then s.ckAcc + b else s.ckAcc,
        seq := if s.rxcnt.toNat + 1 = s.rxlen.toNat then .check else .read } ∧
      m.read s.rxcnt.toNat = some b ∧ ∀ a, a ≠ s.rxcnt.toNat → m.read a = s.rxbuf.read a

/-- R171, R175, R176: a read error ends the attempt; the bytes already stored stay. -/
def Obligations.RxErrorEndsTheAttempt : Prop :=
  ∀ (s : State) (e : ChanErr) (bytes : List Byte), s.seq = .read →
    s.rxbuf.slice 0 s.rxcnt.toNat = some bytes →
    (s.attempt.toNat < 3 → exec (.rxError e) s = .next { s with
      errcode := e, cause := .readErr, trace := s.trace ++ [.rx s.attempt.toNat bytes], seq := .delay,
      timer := Config.tDly }) ∧
    (s.attempt.toNat = 3 → exec (.rxError e) s = .next { s with
      errcode := e, cause := .readErr, trace := s.trace ++ [.rx 3 bytes], result := .failTransport,
      done := true, seq := .idle })

/-- R172, R175: a tick in `READ` counts down, or ends the attempt by a timeout that leaves `ERRCODE` alone. -/
def Obligations.TickInReadCountsOrTimesOut : Prop :=
  ∀ s : State, s.seq = .read →
    (1 < s.timer.toNat → exec .tickRead s = .next { s with timer := s.timer - 1#16 }) ∧
    ∀ bytes, s.timer.toNat ≤ 1 → s.rxbuf.slice 0 s.rxcnt.toNat = some bytes →
      (s.attempt.toNat < 3 → exec .tickRead s = .next { s with
        cause := .timeout, trace := s.trace ++ [.rx s.attempt.toNat bytes], seq := .delay,
        timer := Config.tDly }) ∧
      (s.attempt.toNat = 3 → exec .tickRead s = .next { s with
        cause := .timeout, trace := s.trace ++ [.rx 3 bytes], timer := 0#16, result := .failTransport,
        done := true, seq := .idle })

/-- R166, R173: a tick in `DELAY` counts down, or begins the next attempt from byte 0. -/
def Obligations.TickInDelayCountsOrBegins : Prop :=
  ∀ s : State, s.seq = .delay →
    (1 < s.timer.toNat → exec .tickDelay s = .next { s with timer := s.timer - 1#16 }) ∧
    ∀ bytes, s.timer.toNat ≤ 1 → s.txbuf.slice 0 s.txlen.toNat = some bytes →
      exec .tickDelay s = .next { s with
        timer := 0#16, attempt := s.attempt + 1#2, txidx := 0#9, rxcnt := 0#9, seq := .write,
        trace := s.trace ++ [.tx (s.attempt.toNat + 1) bytes] }

/-- R174: the check step computes the checksum and the parser flags, traces the response and gives the verdict by
the trailer alone. -/
def Obligations.CheckDecidesByTheTrailer : Prop :=
  ∀ (s : State) (f : List Byte), s.seq = .check → s.rxcnt = s.rxlen → 2 ≤ s.rxlen.toNat →
    s.rxbuf.slice 0 s.rxlen.toNat = some f →
      ∃ som len ck : Bool,
        exec .check s = .next { s with
          ckCalc := cksum f, somOk := som, lenOk := len, ckOk := ck,
          trace := s.trace ++ [.rx s.attempt.toNat f],
          result := if ck then .ok else .failChecksum, done := true, seq := .idle } ∧
        (som = true ↔ f[0]? = some Config.som) ∧
        (len = true ↔ ∃ l, f[1]? = some l ∧ (l.toNat : Int) = (s.rxlen.toNat : Int) - 3) ∧
        (ck = true ↔ f[s.rxlen.toNat - 1]? = some (cksum f))

/-- R177: ticks outside `READ` and `DELAY` change nothing; the other events outside their state are no step. -/
def Obligations.DisabledEventsAreNoStep : Prop :=
  (∀ s : State, s.seq = .idle ∨ s.seq = .write ∨ s.seq = .check → exec .tickIdle s = .next s) ∧
    (∀ (s : State) (e : ChanErr), s.seq ≠ .write →
      exec .txAccept s = .refused .notEnabled ∧ exec .txAcceptLast s = .refused .notEnabled ∧
        exec (.txError e) s = .refused .notEnabled) ∧
    (∀ (s : State) (b : Byte) (e : ChanErr), s.seq ≠ .read →
      exec (.rxByte b) s = .refused .notEnabled ∧ exec (.rxError e) s = .refused .notEnabled) ∧
    ∀ s : State, s.seq ≠ .check → exec .check s = .refused .notEnabled

/-! ### Session operations -/

/-- R105, R211, R215: with the channel open and no transaction in flight, GET_VERSION and NUMHEATERS put their
request frame in `TXBUF`, set both lengths and start a transaction. That this is one step is the model's choice
(log 13). -/
def Obligations.SessionRequestStartsItsFrame : Prop :=
  ∀ (s : State) (i : Instr) (cmd : Byte) (n : Nat), s.seq = .idle → s.chanOpen = true →
    (i = .getVersion ∧ cmd = Config.cmdGetVersion ∧ n = 10) ∨
      (i = .numHeaters ∧ cmd = Config.cmdNumHeaters ∧ n = Config.respLenNumHeaters) →
    ∃ m : Memory,
      exec i s = .next { s with
        txbuf := m, txlen := 6#9, rxlen := BitVec.ofNat 9 n, done := false, result := .none, cause := .none,
        errcode := 0#8, somOk := false, lenOk := false, ckOk := false, ckCalc := 0#8, attempt := 1#2,
        txidx := 0#9, rxcnt := 0#9, seq := .write,
        trace := s.trace ++ [.tx 1 [Config.som, 0x03#8, 0x01#8, 0x02#8, cmd, 250#8 - cmd]],
        ret := .performed } ∧
      m.slice 0 6 = some [Config.som, 0x03#8, 0x01#8, 0x02#8, cmd, 250#8 - cmd] ∧
      ∀ a, 6 ≤ a → m.read a = s.txbuf.read a

/-- R164, R165: the same two operations outside a session fail at once and leave their frame in `TXBUF`; while a
transaction is in flight they change nothing. That this is one step is the model's choice (log 13). -/
def Obligations.SessionRequestTurnedAway : Prop :=
  ∀ (s : State) (i : Instr) (cmd : Byte) (n : Nat),
    (i = .getVersion ∧ cmd = Config.cmdGetVersion ∧ n = 10) ∨
      (i = .numHeaters ∧ cmd = Config.cmdNumHeaters ∧ n = Config.respLenNumHeaters) →
    (s.seq = .idle → s.chanOpen = false →
      ∃ m : Memory,
        exec i s = .next { s with
          txbuf := m, txlen := 6#9, rxlen := BitVec.ofNat 9 n, done := true, result := .failProtocol,
          cause := .notOpen, errcode := 0#8, somOk := false, lenOk := false, ckOk := false, ckCalc := 0#8,
          attempt := 0#2, txidx := 0#9, rxcnt := 0#9, ret := .performed } ∧
        m.slice 0 6 = some [Config.som, 0x03#8, 0x01#8, 0x02#8, cmd, 250#8 - cmd] ∧
        ∀ a, 6 ≤ a → m.read a = s.txbuf.read a) ∧
    (s.seq ≠ .idle → exec i s = .next { s with ret := .refused .busy })

/-- R124, R212, R214: after a successful transaction the version is read at offsets 5 to 8, the build number
big-endian; after any other verdict the handshake fails. These are the model's: the read is an instruction of its own,
the part of the handshake after its WAIT (log 13), and takes any successful transaction, whatever request began it
(log 27); the session keeps the version first read (log 14); an operation issued too early (log 4) or over fewer than
nine received bytes (log 20) is marked a refusal. -/
def Obligations.VersionIsReadByOffset : Prop :=
  (∀ (s : State) (major minor hi lo : Byte), s.seq = .idle → s.done = true → s.result = .ok →
    9 ≤ s.rxcnt.toNat → s.rxbuf.read 5 = some major → s.rxbuf.read 6 = some minor → s.rxbuf.read 7 = some hi →
    s.rxbuf.read 8 = some lo →
      ∃ build : Word16, build.toNat = 256 * hi.toNat + lo.toNat ∧
        exec .versionResp s = .next { s with
          session := { s.session with
            versionInfo := some (s.session.versionInfo.getD ⟨major, minor, build⟩) },
          ret := .version ⟨major, minor, build⟩ }) ∧
    (∀ s : State, s.seq = .idle → s.done = true → s.result = .ok → s.rxcnt.toNat < 9 →
      exec .versionResp s = .next { s with ret := .refused .badIndex }) ∧
    (∀ s : State, s.seq = .idle → s.done = true → s.result ≠ .ok →
      exec .versionResp s = .next { s with ret := .failure }) ∧
    ∀ s : State, s.seq ≠ .idle ∨ s.done = false → ∃ r, exec .versionResp s = .next { s with ret := .refused r }

/-- R124, R216, R217: after a successful transaction the heater count is read at offset 4, unsigned; after any other
verdict discovery fails. The offset is the disputed one that `spec/90_conflicts.md` C2 chooses (log 12). These are the
model's: the read is an instruction of its own, the part of discovery after its WAIT (log 13), and takes any
successful transaction, whatever request began it (log 27); the session keeps the count last read (log 14); an
operation issued too early (log 4) or over fewer than five received bytes (log 20) is marked a refusal. -/
def Obligations.HeaterCountIsReadByOffset : Prop :=
  (∀ (s : State) (n : Byte), s.seq = .idle → s.done = true → s.result = .ok → 5 ≤ s.rxcnt.toNat →
    s.rxbuf.read 4 = some n →
      exec .numHeatersResp s = .next { s with
        session := { s.session with heaterCount := some n }, ret := .heaters n }) ∧
    (∀ s : State, s.seq = .idle → s.done = true → s.result = .ok → s.rxcnt.toNat < 5 →
      exec .numHeatersResp s = .next { s with ret := .refused .badIndex }) ∧
    (∀ s : State, s.seq = .idle → s.done = true → s.result ≠ .ok →
      exec .numHeatersResp s = .next { s with ret := .failure }) ∧
    ∀ s : State, s.seq ≠ .idle ∨ s.done = false →
      ∃ r, exec .numHeatersResp s = .next { s with ret := .refused r }

/-- R223, R282: the stubs report `UNSUPPORTED` and touch nothing, in every state. -/
def Obligations.StubsTouchNothing : Prop :=
  ∀ (s : State) (channel : Nat) (enabled : Bool) (period duty : Rat) (i : Instr),
    i = .setPwm channel enabled period duty ∨ i = .forceReboot ∨ i = .forceReset ∨ i = .readVersion ∨
      i = .readReport →
        exec i s = .next { s with ret := .unsupported }

/-! ### The step and the inputs that are no instruction -/

/-- R7, R161, R162: a step takes the next event off the schedule and runs the instruction the event is in the
present context; with nothing scheduled the engine takes its own Check, and otherwise there is no step. The
schedule is the model's (logs 1, 2, 23). -/
def Obligations.StepRunsTheNextEvent : Prop :=
  (∀ (s : State) (e : Event) (rest : List Event) (i : Instr), s.schedule = e :: rest →
    decodeEvent ⟨s.seq, decide (s.txidx.toNat + 1 = s.txlen.toNat)⟩ e = .ok i →
      step s = exec i { s with schedule := rest }) ∧
    (∀ s : State, s.schedule = [] → s.seq = .check → step s = exec .check s) ∧
    ∀ s : State, s.schedule = [] → s.seq ≠ .check → step s = .refused .noEvent

/-- R47: the values after reset, and the images they give. -/
def Obligations.StateAfterReset : Prop :=
  State.reset.seq = .idle ∧ State.reset.txidx = 0 ∧ State.reset.rxcnt = 0 ∧ State.reset.attempt = 0 ∧
    State.reset.timer = 0 ∧ State.reset.done = false ∧ State.reset.result = .none ∧
    State.reset.cause = .none ∧ State.reset.errcode = 0 ∧ State.reset.somOk = false ∧
    State.reset.lenOk = false ∧ State.reset.ckOk = false ∧ State.reset.ckCalc = 0 ∧ State.reset.ckAcc = 0 ∧
    State.reset.txlen = 0 ∧ State.reset.rxlen = 0 ∧
    (∀ a, State.reset.txbuf.read a = none ∧ State.reset.rxbuf.read a = none) ∧ State.reset.trace = [] ∧
    csrValue State.reset 9 = some Config.tRd ∧ csrValue State.reset 10 = some Config.tDly ∧
    State.reset.chanOpen = false ∧ csrValue State.reset 0 = some 0 ∧ csrValue State.reset 1 = some 0

/-- R280, R281: the reset input is taken in every state and gives the block its reset values. That `CHAN_OPEN`, the
record of the wire, the session and the schedule are not the block's to reset is the model's (log 16). -/
def Obligations.ResetIsTakenInEveryState : Prop :=
  ∀ (s : State) (rest : List Event), s.schedule = .reset :: rest →
    step s = .next { State.reset with
      chanOpen := s.chanOpen, wire := s.wire, session := s.session, schedule := rest }

/-- R38, R262, R296: `CHAN_OPEN` may change in every state, and the change alone moves nothing of the block. That a
newly opened channel begins a session that has read nothing is the model's (log 14). -/
def Obligations.ChannelLevelIsAnInput : Prop :=
  ∀ (s : State) (level : Bool) (rest : List Event), s.schedule = .chanOpen level :: rest →
    step s = .next { s with
      chanOpen := level, schedule := rest,
      session := if level = true ∧ s.chanOpen = false then ⟨none, none⟩ else s.session }

/-! ### Rules of the whole machine -/

/-- R38: no instruction but those that issue a START reads `CHAN_OPEN`. -/
def Obligations.ChanOpenIsSampledOnlyByStart : Prop :=
  ∀ (i : Instr) (s : State) (level : Bool), opensTransaction i = false →
    exec i { s with chanOpen := level } = mapNext (fun t => { t with chanOpen := level }) (exec i s)

/-- R39: the trace is append-only, and no instruction reads it. -/
def Obligations.TraceIsOutputOnly : Prop :=
  ∀ (i : Instr) (s : State) (before : List TraceRecord),
    exec i { s with trace := before ++ s.trace } =
      mapNext (fun t => { t with trace := before ++ t.trace }) (exec i s)

/-- R21, R43, R76, R291: while a transaction is in flight no step but reset changes the command or the lengths, so
every attempt sends the same bytes; outside `READ` no step but reset changes the response buffer. -/
def Obligations.BuffersChangeOnlyByTheirOwner : Prop :=
  ∀ s t : State, nextIsReset s = false → step s = .next t →
    (s.seq ≠ .idle → t.txbuf = s.txbuf ∧ t.txlen = s.txlen ∧ t.rxlen = s.rxlen) ∧
      (s.seq ≠ .read → t.rxbuf = s.rxbuf)

/-- R29, R251: `DONE` rises only with a verdict and in `IDLE`, and falls only at an accepted START or at reset. -/
def Obligations.DoneMovesOnlyAtItsEvents : Prop :=
  ∀ s t : State, step s = .next t →
    (s.done = false → t.done = true → t.seq = .idle ∧ t.result ≠ .none) ∧
      (s.done = true → t.done = false →
        nextIsReset s = true ∨ (s.seq = .idle ∧ t.seq = .write ∧ t.attempt = 1#2))

/-- R180, R297: nothing but an answer of the channel, or reset, moves the engine out of `WRITE` or advances
`TXIDX` there. -/
def Obligations.OnlyTheChannelEndsAWrite : Prop :=
  ∀ s t : State, s.seq = .write → step s = .next t → t.seq ≠ .write ∨ t.txidx ≠ s.txidx →
    s.schedule.head? = some .txAccept ∨ (∃ e, s.schedule.head? = some (.txError e)) ∨ nextIsReset s = true

/-- R64, R74: the record of the wire grows by the presented byte when the channel takes it, and never otherwise
(log 8). -/
def Obligations.WireTakesOnlyThePresentedByte : Prop :=
  ∀ s t : State, step s = .next t →
    t.wire = s.wire ∨
      ∃ b, s.seq = .write ∧ s.schedule.head? = some .txAccept ∧ s.txbuf.read s.txidx.toNat = some b ∧
        t.wire = s.wire ++ [b]

/-! ### Invariants -/

/-- R20, R21: the buffers keep their canonical form, in every state. -/
def Obligations.StepKeepsBuffersCanonical : Prop :=
  ∀ s t : State, BuffersWf s → step s = .next t → BuffersWf t

/-- R24 to R33: every step keeps the invariants of the registers. -/
def Obligations.StepKeepsTheInvariant : Prop :=
  ∀ s t : State, Inv s → step s = .next t → Inv t

/-- The invariants hold after reset. -/
def Obligations.InvariantHoldsAtReset : Prop := Inv State.reset

/-- R62: from a state with the invariants the engine never reads a cell that holds no value and never writes a
cell that does not exist. -/
def Obligations.EngineAccessesAreInRange : Prop :=
  ∀ (s : State) (r : Fault), Inv s → step s ≠ .fault r

/-- R180: in a good state every phase has a step: its events answer. -/
def Obligations.EveryPhaseHasAStep : Prop :=
  ∀ (s : State) (e : ChanErr) (b : Byte), Inv s →
    (s.seq = .write →
      (∃ t, exec (.txError e) s = .next t) ∧
        ((∃ t, exec .txAccept s = .next t) ∨ ∃ t, exec .txAcceptLast s = .next t)) ∧
    (s.seq = .read →
      (∃ t, exec (.rxByte b) s = .next t) ∧ (∃ t, exec (.rxError e) s = .next t) ∧
        ∃ t, exec .tickRead s = .next t) ∧
    (s.seq = .check → ∃ t, exec .check s = .next t) ∧ (s.seq = .delay → ∃ t, exec .tickDelay s = .next t)

/-- R179, R266: a transaction traces one outgoing and one incoming record per attempt, in turn, numbered from 1:
so after its START, and every step keeps it. -/
def Obligations.TraceAlternates : Prop :=
  (∀ s t : State, s.seq = .idle → exec .start s = .next t → t.seq = .write →
    ∃ req, t.txbuf.slice 0 t.txlen.toNat = some req ∧ TraceSince s.trace req t) ∧
    ∀ (before : List TraceRecord) (req : List Byte) (s t : State), Inv s → s.seq ≠ .idle →
      s.txbuf.slice 0 s.txlen.toNat = some req → TraceSince before req s → nextIsReset s = false →
        step s = .next t → TraceSince before req t

/-- R180: from an accepted START to the end of the transaction `READ` and `DELAY` count at most
`3 * T_RD + 2 * T_DLY` ticks, whatever the channel does. -/
def Obligations.TicksOfATransactionAreBounded : Prop :=
  ∀ (s t : State) (k : Nat), Inv s → s.seq = .idle → exec .start s = .next t → t.seq = .write →
    ticksServed k t ≤ 3 * Config.tRd.toNat + 2 * Config.tDly.toNat

/-! ### Attempts -/

/-- R64, R178 (outcome `S(r)`): an attempt whose bytes are all accepted and answered, the answer interleaved in any
way with fewer than `T_RD` ticks, ends by the trailer of what was received. The accepted bytes come in a row. The wire
and the schedule are the model's (logs 1, 8). -/
def Obligations.AnsweredAttemptEndsByTheTrailer : Prop :=
  ∀ (s : State) (req r : List Byte) (n : Nat) (q rest : List Event), Inv s → s.seq = .write → s.txidx = 0#9 →
    s.txbuf.slice 0 s.txlen.toNat = some req → r.length = s.rxlen.toNat → n < Config.tRd.toNat →
    Merged (delivers r) n q → s.schedule = accepts s.txlen.toNat ++ (q ++ .check :: rest) →
      ∃ t, run (s.txlen.toNat + q.length + 1) s = .next t ∧ t.seq = .idle ∧ t.done = true ∧
        t.result = (if isCkOk r then .ok else .failChecksum) ∧ t.attempt = s.attempt ∧
        t.rxbuf.slice 0 s.rxlen.toNat = some r ∧ t.rxcnt = s.rxlen ∧ t.wire = s.wire ++ req ∧
        t.trace = s.trace ++ [.rx s.attempt.toNat r] ∧ t.cause = s.cause ∧ t.schedule = rest

/-- R168, R170, R172, R178 (outcome `T(k)`): an attempt that receives too few bytes, interleaved in any way with the
ticks, ends at the `T_RD`-th tick of its read phase, not before, as a timeout: no arriving byte restarts the timer.
The accepted bytes come in a row. The wire and the schedule are the model's (logs 1, 8). -/
def Obligations.UnansweredAttemptTimesOut : Prop :=
  ∀ (s : State) (req r : List Byte) (q rest : List Event), Inv s → s.seq = .write → s.txidx = 0#9 →
    s.txbuf.slice 0 s.txlen.toNat = some req → r.length < s.rxlen.toNat →
    Merged (delivers r) (Config.tRd.toNat - 1) q →
    s.schedule = accepts s.txlen.toNat ++ (q ++ .tick :: rest) →
      (∃ u, run (s.txlen.toNat + q.length) s = .next u ∧ u.seq = .read ∧ u.timer = 1#16 ∧
        u.rxcnt.toNat = r.length) ∧
      ∃ t, run (s.txlen.toNat + q.length + 1) s = .next t ∧ t.cause = .timeout ∧
        t.errcode = s.errcode ∧ t.attempt = s.attempt ∧ t.wire = s.wire ++ req ∧
        t.trace = s.trace ++ [.rx s.attempt.toNat r] ∧ t.schedule = rest ∧
        (s.attempt.toNat < 3 → t.seq = .delay ∧ t.timer = Config.tDly) ∧
        (s.attempt.toNat = 3 → t.seq = .idle ∧ t.done = true ∧ t.result = .failTransport)

/-- R173: a delay phase lasts exactly `T_DLY` ticks and is followed by the next attempt. -/
def Obligations.DelayLastsItsTicks : Prop :=
  ∀ (s : State) (req : List Byte) (rest : List Event), Inv s → s.seq = .delay → s.timer = Config.tDly →
    s.txbuf.slice 0 s.txlen.toNat = some req →
    s.schedule = ticks Config.tDly.toNat ++ rest →
      (∃ u, run (Config.tDly.toNat - 1) s = .next u ∧ u.seq = .delay) ∧
      ∃ t, run Config.tDly.toNat s = .next t ∧ t.seq = .write ∧ t.attempt.toNat = s.attempt.toNat + 1 ∧
        t.txidx = 0#9 ∧ t.rxcnt = 0#9 ∧ t.trace = s.trace ++ [.tx (s.attempt.toNat + 1) req] ∧
        t.schedule = rest

/-- R179 (the source's always-timing-out channel): a transaction whose commands are taken and never answered fails
after exactly three attempts, as a transport failure with cause timeout. -/
def Obligations.SilentDeviceFailsAfterThreeAttempts : Prop :=
  ∀ (s : State) (req : List Byte) (rest : List Event), Inv s → s.seq = .write → s.attempt = 1#2 → s.txidx = 0#9 →
    s.txbuf.slice 0 s.txlen.toNat = some req →
    s.schedule =
      accepts s.txlen.toNat ++ (ticks Config.tRd.toNat ++ (ticks Config.tDly.toNat ++
        (accepts s.txlen.toNat ++ (ticks Config.tRd.toNat ++ (ticks Config.tDly.toNat ++
          (accepts s.txlen.toNat ++ (ticks Config.tRd.toNat ++ rest))))))) →
      ∃ t, run (3 * (s.txlen.toNat + Config.tRd.toNat) + 2 * Config.tDly.toNat) s = .next t ∧
        t.seq = .idle ∧ t.done = true ∧ t.result = .failTransport ∧ t.cause = .timeout ∧ t.attempt = 3#2 ∧
        t.rxcnt = 0#9 ∧ t.wire = s.wire ++ req ++ req ++ req ∧ t.schedule = rest ∧
        t.trace = s.trace ++ [.rx 1 [], .tx 2 req, .rx 2 [], .tx 3 req, .rx 3 []]
end

