-- ==== Sys2Proof/Laws/Frame.lean ====
section
/-! SUPPORT. Small laws of the frame format and of the parameters. -/

namespace Sys2Proof

/-- `T_RD` is at least one tick (R9). -/
theorem Config.one_le_tRd : 1 ≤ Config.tRd.toNat := by
  have := Config.readTimeoutPred.isLt
  simp only [Config.tRd, BitVec.toNat_ofNat]; omega

@[simp] theorem Config.tDly_toNat : Config.tDly.toNat = 101 := rfl

/-- `RESP_LEN_NUMHEATERS` is a legal response length that holds the count (R9). -/
theorem Config.respLenNumHeaters_bounds : 6 ≤ Config.respLenNumHeaters ∧ Config.respLenNumHeaters ≤ 258 := by
  have := Config.respLenNumHeatersExtra.isLt
  simp only [Config.respLenNumHeaters, Config.heaterCountOffset]; omega

/-- Distinct arguments of the unknown permutation are distinct command codes (R9). -/
theorem Config.commandCode_inj {a b : Byte} (h : Config.commandCode a = Config.commandCode b) : a = b :=
  Config.commandCode.injective h

namespace Machine

theorem be16_toNat (hi lo : Byte) : (be16 hi lo).toNat = 256 * hi.toNat + lo.toNat := by
  have := lo.isLt
  simp only [be16, BitVec.toNat_append]
  rw [← Nat.shiftLeft_add_eq_or_of_lt lo.isLt, Nat.shiftLeft_eq]; omega

theorem hiByte_toNat (w : Word16) : (hiByte w).toNat = w.toNat / 256 := by
  have := w.isLt
  simp only [hiByte, BitVec.extractLsb'_toNat, Nat.shiftRight_eq_div_pow]; omega

theorem loByte_toNat (w : Word16) : (loByte w).toNat = w.toNat % 256 := by
  simp [loByte, BitVec.extractLsb'_toNat]

@[simp] theorem be16_hiByte_loByte (w : Word16) : be16 (hiByte w) (loByte w) = w := by
  apply BitVec.eq_of_toNat_eq
  rw [be16_toNat, hiByte_toNat, loByte_toNat]; omega

@[simp] theorem hiByte_be16 (hi lo : Byte) : hiByte (be16 hi lo) = hi := by
  apply BitVec.eq_of_toNat_eq
  rw [hiByte_toNat, be16_toNat]; omega

@[simp] theorem loByte_be16 (hi lo : Byte) : loByte (be16 hi lo) = lo := by
  apply BitVec.eq_of_toNat_eq
  rw [loByte_toNat, be16_toNat]; omega

theorem signedSum_append (a b : List Byte) : signedSum (a ++ b) = signedSum a + signedSum b := by
  induction a with
  | nil => simp [signedSum]
  | cons x r ih => simp [signedSum, ih, Int.add_assoc]

theorem unsignedSum_append (a b : List Byte) : unsignedSum (a ++ b) = unsignedSum a + unsignedSum b := by
  induction a with
  | nil => simp [unsignedSum]
  | cons x r ih => simp [unsignedSum, ih, Nat.add_assoc]

theorem accSum_append (a b : List Byte) : accSum (a ++ b) = accSum a + accSum b := by
  induction a with
  | nil => simp [accSum]
  | cons x r ih => simp [accSum, ih, BitVec.add_assoc]

@[simp] theorem frameTemplate_length (src dst cmd : Byte) (p : List Byte) :
    (frameTemplate src dst cmd p).length = p.length + 6 := by simp [frameTemplate]

@[simp] theorem completeFrame_length (src dst cmd : Byte) (p : List Byte) :
    (completeFrame src dst cmd p).length = p.length + 6 := by simp [completeFrame]

@[simp] theorem requestFrame_length (cmd : Byte) : (requestFrame cmd).length = 6 := rfl

/-- The body of a sequence written as first byte, body, trailer. -/
@[simp] theorem bodyOf_cons_append (a k : Byte) (body : List Byte) : bodyOf (a :: (body ++ [k])) = body := by
  simp [bodyOf]

end Machine

end Sys2Proof
end

