-- ==== Sys2Proof/Laws/Memory.lean ====
section
/-! SUPPORT. The laws of the buffers: a read after a write, the canonical form, consecutive bytes. -/

namespace Sys2Proof.Machine

@[simp] theorem Memory.read_nil (i : Nat) : Memory.read [] i = none := rfl

theorem Memory.read_cons (a : Nat) (v : Byte) (m : Memory) (i : Nat) :
    Memory.read ((a, v) :: m) i = if a = i then some v else Memory.read m i := rfl

/-- A read of the written cell gives the written byte, of any other what it gave before. -/
theorem Memory.read_write (m : Memory) (i j : Nat) (v : Byte) :
    (m.write i v).read j = if j = i then some v else m.read j := by
  induction m with
  | nil => simp [Memory.write, Memory.read_cons, eq_comm]
  | cons c rest ih =>
    obtain ⟨a, w⟩ := c
    simp only [Memory.write]
    split
    · simp only [Memory.read_cons, eq_comm]
    · split
      · next h =>
        subst h
        simp only [Memory.read_cons]
        by_cases hj : i = j
        · subst hj; simp
        · rw [if_neg hj, if_neg (Ne.symm hj), if_neg hj]
      · next hne =>
        simp only [Memory.read_cons, ih]
        by_cases hj : a = j
        · subst hj; rw [if_pos rfl, if_pos rfl, if_neg (Ne.symm hne)]
        · rw [if_neg hj, if_neg hj]

theorem Memory.read_write_same (m : Memory) (i : Nat) (v : Byte) : (m.write i v).read i = some v := by
  simp [Memory.read_write]

theorem Memory.read_write_other (m : Memory) (i j : Nat) (v : Byte) (h : j ≠ i) :
    (m.write i v).read j = m.read j := by simp [Memory.read_write, h]

/-- Consecutive writes: the listed bytes at their cells, every other cell as before. -/
theorem Memory.read_writeList (f : List Byte) (m : Memory) (i j : Nat) :
    (m.writeList i f).read j = if i ≤ j ∧ j < i + f.length then f[j - i]? else m.read j := by
  induction f generalizing m i with
  | nil => rw [if_neg (by simp)]; rfl
  | cons b r ih =>
    rw [Memory.writeList, ih, Memory.read_write, List.length_cons]
    rcases lt_trichotomy j i with h | rfl | h
    · rw [if_neg (by omega), if_neg (by omega), if_neg (by omega)]
    · rw [if_neg (by omega), if_pos rfl, if_pos (by omega)]; simp
    · obtain ⟨d, rfl⟩ : ∃ d, j = i + 1 + d := ⟨j - (i + 1), by omega⟩
      have e : i + 1 + d - i = d + 1 := by omega
      by_cases hd : d < r.length
      · rw [if_pos (by omega), if_pos (by omega), e]; simp
      · rw [if_neg (by omega), if_neg (by omega), if_neg (by omega)]

/-! ### Canonical form -/

theorem Memory.risingFrom_write (m : Memory) (lo i : Nat) (v : Byte) (h : Memory.risingFrom lo m = true)
    (hlo : lo ≤ i) (hi : i < Config.bufCap) : Memory.risingFrom lo (m.write i v) = true := by
  induction m generalizing lo with
  | nil => simp [Memory.write, Memory.risingFrom, hlo, hi]
  | cons c rest ih =>
    obtain ⟨a, w⟩ := c
    simp only [Memory.risingFrom, Bool.and_eq_true, decide_eq_true_eq] at h
    obtain ⟨⟨h1, h2⟩, h3⟩ := h
    simp only [Memory.write]
    split
    · next hlt =>
      simp only [Memory.risingFrom, Bool.and_eq_true, decide_eq_true_eq]
      exact ⟨⟨hlo, hi⟩, ⟨by omega, h2⟩, h3⟩
    · split
      · next hge he =>
        subst he
        simp only [Memory.risingFrom, Bool.and_eq_true, decide_eq_true_eq]
        exact ⟨⟨hlo, hi⟩, h3⟩
      · next hge hne =>
        simp only [Memory.risingFrom, Bool.and_eq_true, decide_eq_true_eq]
        exact ⟨⟨h1, h2⟩, ih (a + 1) h3 (by omega)⟩

/-- A write inside the buffer keeps the canonical form. -/
theorem Memory.wf_write (m : Memory) (i : Nat) (v : Byte) (h : m.wf = true) (hi : i < Config.bufCap) :
    (m.write i v).wf = true := Memory.risingFrom_write m 0 i v h (Nat.zero_le i) hi

/-- Consecutive writes inside the buffer keep the canonical form. -/
theorem Memory.wf_writeList (f : List Byte) (m : Memory) (i : Nat) (h : m.wf = true)
    (hi : i + f.length ≤ Config.bufCap) : (m.writeList i f).wf = true := by
  induction f generalizing m i with
  | nil => exact h
  | cons b r ih =>
    rw [List.length_cons] at hi
    exact ih _ _ (Memory.wf_write m i b h (by omega)) (by omega)

@[simp] theorem Memory.wf_nil : Memory.wf [] = true := rfl

/-! ### Consecutive bytes -/

@[simp] theorem Memory.slice_zero (m : Memory) (i : Nat) : m.slice i 0 = some [] := rfl

theorem Memory.slice_succ (m : Memory) (i n : Nat) :
    m.slice i (n + 1) = (m.read i).bind fun b => (m.slice (i + 1) n).map (b :: ·) := by
  rw [Memory.slice]; cases m.read i <;> cases m.slice (i + 1) n <;> rfl

/-- Consecutive bytes are exactly the cells, each holding its byte. -/
theorem Memory.slice_eq_some (m : Memory) (i n : Nat) (f : List Byte) :
    m.slice i n = some f ↔ f.length = n ∧ ∀ k, k < n → m.read (i + k) = f[k]? := by
  induction n generalizing i f with
  | zero =>
    simp only [Memory.slice_zero, Option.some.injEq, Nat.not_lt_zero, false_implies, implies_true, and_true]
    exact ⟨fun h => h ▸ rfl, fun h => (List.length_eq_zero_iff.1 h).symm⟩
  | succ n ih =>
    rw [Memory.slice_succ]
    constructor
    · intro h
      simp only [Option.bind_eq_some_iff, Option.map_eq_some_iff] at h
      obtain ⟨b, hb, r, hr, rfl⟩ := h
      obtain ⟨hl, hk⟩ := (ih _ _).1 hr
      refine ⟨by simp [hl], fun k hkn => ?_⟩
      cases k with
      | zero => simpa using hb
      | succ k => have := hk k (by omega); simpa [Nat.add_assoc, Nat.add_comm 1] using this
    · rintro ⟨hl, hk⟩
      cases f with
      | nil => simp at hl
      | cons b r =>
        have h0 := hk 0 (by omega)
        have hr : m.slice (i + 1) n = some r := (ih _ _).2 ⟨by simpa using hl, fun k hkn => by
          have := hk (k + 1) (by omega); simpa [Nat.add_assoc, Nat.add_comm 1] using this⟩
        simp only [Nat.add_zero, List.getElem?_cons_zero] at h0
        simp [h0, hr]

theorem Memory.slice_length {m : Memory} {i n : Nat} {f : List Byte} (h : m.slice i n = some f) :
    f.length = n := ((Memory.slice_eq_some m i n f).1 h).1

/-- A slice depends on its cells alone. -/
theorem Memory.slice_congr {m m' : Memory} {i n : Nat} (h : ∀ k, k < n → m'.read (i + k) = m.read (i + k)) :
    m'.slice i n = m.slice i n := by
  induction n generalizing i with
  | zero => rfl
  | succ n ih =>
    rw [Memory.slice_succ, Memory.slice_succ, ih fun k hk => by
      have := h (k + 1) (by omega); simpa [Nat.add_assoc, Nat.add_comm 1] using this]
    rw [show m'.read i = m.read i by simpa using h 0 (by omega)]

/-- One more byte at the end of a slice. -/
theorem Memory.slice_snoc {m : Memory} {i n : Nat} {f : List Byte} {b : Byte} (h : m.slice i n = some f)
    (hb : m.read (i + n) = some b) : m.slice i (n + 1) = some (f ++ [b]) := by
  obtain ⟨hl, hk⟩ := (Memory.slice_eq_some m i n f).1 h
  refine (Memory.slice_eq_some _ _ _ _).2 ⟨by simp [hl], fun k hkn => ?_⟩
  rcases Nat.lt_succ_iff_lt_or_eq.1 hkn with hlt | rfl
  · rw [hk k hlt, List.getElem?_append_left (by omega)]
  · rw [hb, ← hl]; simp

/-- The bytes just written, read back as a slice. -/
theorem Memory.slice_writeList (f : List Byte) (m : Memory) (i : Nat) :
    (m.writeList i f).slice i f.length = some f := by
  refine (Memory.slice_eq_some _ _ _ _).2 ⟨rfl, fun k hk => ?_⟩
  rw [Memory.read_writeList, if_pos (by omega)]; congr 1; omega

end Sys2Proof.Machine
end

