-- ==== Sys2Proof/Laws/State.lean ====
section
/-! SUPPORT. What each update of the state leaves in each field, so that no proof unfolds a record update. -/

namespace Sys2Proof.Machine

/-! ### `returning` -/

@[simp] theorem State.returning_seq (s : State) (r : HostReturn) : (s.returning r).seq = s.seq := rfl
@[simp] theorem State.returning_txidx (s : State) (r : HostReturn) : (s.returning r).txidx = s.txidx := rfl
@[simp] theorem State.returning_rxcnt (s : State) (r : HostReturn) : (s.returning r).rxcnt = s.rxcnt := rfl
@[simp] theorem State.returning_attempt (s : State) (r : HostReturn) : (s.returning r).attempt = s.attempt := rfl
@[simp] theorem State.returning_timer (s : State) (r : HostReturn) : (s.returning r).timer = s.timer := rfl
@[simp] theorem State.returning_done (s : State) (r : HostReturn) : (s.returning r).done = s.done := rfl
@[simp] theorem State.returning_result (s : State) (r : HostReturn) : (s.returning r).result = s.result := rfl
@[simp] theorem State.returning_cause (s : State) (r : HostReturn) : (s.returning r).cause = s.cause := rfl
@[simp] theorem State.returning_errcode (s : State) (r : HostReturn) : (s.returning r).errcode = s.errcode := rfl
@[simp] theorem State.returning_somOk (s : State) (r : HostReturn) : (s.returning r).somOk = s.somOk := rfl
@[simp] theorem State.returning_lenOk (s : State) (r : HostReturn) : (s.returning r).lenOk = s.lenOk := rfl
@[simp] theorem State.returning_ckOk (s : State) (r : HostReturn) : (s.returning r).ckOk = s.ckOk := rfl
@[simp] theorem State.returning_ckCalc (s : State) (r : HostReturn) : (s.returning r).ckCalc = s.ckCalc := rfl
@[simp] theorem State.returning_ckAcc (s : State) (r : HostReturn) : (s.returning r).ckAcc = s.ckAcc := rfl
@[simp] theorem State.returning_txlen (s : State) (r : HostReturn) : (s.returning r).txlen = s.txlen := rfl
@[simp] theorem State.returning_rxlen (s : State) (r : HostReturn) : (s.returning r).rxlen = s.rxlen := rfl
@[simp] theorem State.returning_txbuf (s : State) (r : HostReturn) : (s.returning r).txbuf = s.txbuf := rfl
@[simp] theorem State.returning_rxbuf (s : State) (r : HostReturn) : (s.returning r).rxbuf = s.rxbuf := rfl
@[simp] theorem State.returning_chanOpen (s : State) (r : HostReturn) : (s.returning r).chanOpen = s.chanOpen := rfl
@[simp] theorem State.returning_trace (s : State) (r : HostReturn) : (s.returning r).trace = s.trace := rfl
@[simp] theorem State.returning_wire (s : State) (r : HostReturn) : (s.returning r).wire = s.wire := rfl
@[simp] theorem State.returning_session (s : State) (r : HostReturn) : (s.returning r).session = s.session := rfl
@[simp] theorem State.returning_ret (s : State) (r : HostReturn) : (s.returning r).ret = r := rfl
@[simp] theorem State.returning_schedule (s : State) (r : HostReturn) : (s.returning r).schedule = s.schedule := rfl

/-! ### `refusing` -/

@[simp] theorem State.refusing_seq (s : State) (r : RefuseReason) : (s.refusing r).seq = s.seq := rfl
@[simp] theorem State.refusing_txidx (s : State) (r : RefuseReason) : (s.refusing r).txidx = s.txidx := rfl
@[simp] theorem State.refusing_rxcnt (s : State) (r : RefuseReason) : (s.refusing r).rxcnt = s.rxcnt := rfl
@[simp] theorem State.refusing_attempt (s : State) (r : RefuseReason) : (s.refusing r).attempt = s.attempt := rfl
@[simp] theorem State.refusing_timer (s : State) (r : RefuseReason) : (s.refusing r).timer = s.timer := rfl
@[simp] theorem State.refusing_done (s : State) (r : RefuseReason) : (s.refusing r).done = s.done := rfl
@[simp] theorem State.refusing_result (s : State) (r : RefuseReason) : (s.refusing r).result = s.result := rfl
@[simp] theorem State.refusing_cause (s : State) (r : RefuseReason) : (s.refusing r).cause = s.cause := rfl
@[simp] theorem State.refusing_errcode (s : State) (r : RefuseReason) : (s.refusing r).errcode = s.errcode := rfl
@[simp] theorem State.refusing_somOk (s : State) (r : RefuseReason) : (s.refusing r).somOk = s.somOk := rfl
@[simp] theorem State.refusing_lenOk (s : State) (r : RefuseReason) : (s.refusing r).lenOk = s.lenOk := rfl
@[simp] theorem State.refusing_ckOk (s : State) (r : RefuseReason) : (s.refusing r).ckOk = s.ckOk := rfl
@[simp] theorem State.refusing_ckCalc (s : State) (r : RefuseReason) : (s.refusing r).ckCalc = s.ckCalc := rfl
@[simp] theorem State.refusing_ckAcc (s : State) (r : RefuseReason) : (s.refusing r).ckAcc = s.ckAcc := rfl
@[simp] theorem State.refusing_txlen (s : State) (r : RefuseReason) : (s.refusing r).txlen = s.txlen := rfl
@[simp] theorem State.refusing_rxlen (s : State) (r : RefuseReason) : (s.refusing r).rxlen = s.rxlen := rfl
@[simp] theorem State.refusing_txbuf (s : State) (r : RefuseReason) : (s.refusing r).txbuf = s.txbuf := rfl
@[simp] theorem State.refusing_rxbuf (s : State) (r : RefuseReason) : (s.refusing r).rxbuf = s.rxbuf := rfl
@[simp] theorem State.refusing_chanOpen (s : State) (r : RefuseReason) : (s.refusing r).chanOpen = s.chanOpen := rfl
@[simp] theorem State.refusing_trace (s : State) (r : RefuseReason) : (s.refusing r).trace = s.trace := rfl
@[simp] theorem State.refusing_wire (s : State) (r : RefuseReason) : (s.refusing r).wire = s.wire := rfl
@[simp] theorem State.refusing_session (s : State) (r : RefuseReason) : (s.refusing r).session = s.session := rfl
@[simp] theorem State.refusing_ret (s : State) (r : RefuseReason) : (s.refusing r).ret = .refused r := rfl
@[simp] theorem State.refusing_schedule (s : State) (r : RefuseReason) : (s.refusing r).schedule = s.schedule := rfl

/-! ### `storeTx` -/

@[simp] theorem State.storeTx_seq (s : State) (i : Nat) (v : Byte) : (s.storeTx i v).seq = s.seq := rfl
@[simp] theorem State.storeTx_txidx (s : State) (i : Nat) (v : Byte) : (s.storeTx i v).txidx = s.txidx := rfl
@[simp] theorem State.storeTx_rxcnt (s : State) (i : Nat) (v : Byte) : (s.storeTx i v).rxcnt = s.rxcnt := rfl
@[simp] theorem State.storeTx_attempt (s : State) (i : Nat) (v : Byte) : (s.storeTx i v).attempt = s.attempt := rfl
@[simp] theorem State.storeTx_timer (s : State) (i : Nat) (v : Byte) : (s.storeTx i v).timer = s.timer := rfl
@[simp] theorem State.storeTx_done (s : State) (i : Nat) (v : Byte) : (s.storeTx i v).done = s.done := rfl
@[simp] theorem State.storeTx_result (s : State) (i : Nat) (v : Byte) : (s.storeTx i v).result = s.result := rfl
@[simp] theorem State.storeTx_cause (s : State) (i : Nat) (v : Byte) : (s.storeTx i v).cause = s.cause := rfl
@[simp] theorem State.storeTx_errcode (s : State) (i : Nat) (v : Byte) : (s.storeTx i v).errcode = s.errcode := rfl
@[simp] theorem State.storeTx_somOk (s : State) (i : Nat) (v : Byte) : (s.storeTx i v).somOk = s.somOk := rfl
@[simp] theorem State.storeTx_lenOk (s : State) (i : Nat) (v : Byte) : (s.storeTx i v).lenOk = s.lenOk := rfl
@[simp] theorem State.storeTx_ckOk (s : State) (i : Nat) (v : Byte) : (s.storeTx i v).ckOk = s.ckOk := rfl
@[simp] theorem State.storeTx_ckCalc (s : State) (i : Nat) (v : Byte) : (s.storeTx i v).ckCalc = s.ckCalc := rfl
@[simp] theorem State.storeTx_ckAcc (s : State) (i : Nat) (v : Byte) : (s.storeTx i v).ckAcc = s.ckAcc := rfl
@[simp] theorem State.storeTx_txlen (s : State) (i : Nat) (v : Byte) : (s.storeTx i v).txlen = s.txlen := rfl
@[simp] theorem State.storeTx_rxlen (s : State) (i : Nat) (v : Byte) : (s.storeTx i v).rxlen = s.rxlen := rfl
@[simp] theorem State.storeTx_txbuf (s : State) (i : Nat) (v : Byte) : (s.storeTx i v).txbuf = s.txbuf.write i v := rfl
@[simp] theorem State.storeTx_rxbuf (s : State) (i : Nat) (v : Byte) : (s.storeTx i v).rxbuf = s.rxbuf := rfl
@[simp] theorem State.storeTx_chanOpen (s : State) (i : Nat) (v : Byte) : (s.storeTx i v).chanOpen = s.chanOpen := rfl
@[simp] theorem State.storeTx_trace (s : State) (i : Nat) (v : Byte) : (s.storeTx i v).trace = s.trace := rfl
@[simp] theorem State.storeTx_wire (s : State) (i : Nat) (v : Byte) : (s.storeTx i v).wire = s.wire := rfl
@[simp] theorem State.storeTx_session (s : State) (i : Nat) (v : Byte) : (s.storeTx i v).session = s.session := rfl
@[simp] theorem State.storeTx_ret (s : State) (i : Nat) (v : Byte) : (s.storeTx i v).ret = s.ret := rfl
@[simp] theorem State.storeTx_schedule (s : State) (i : Nat) (v : Byte) : (s.storeTx i v).schedule = s.schedule := rfl

/-! ### `storeFrame` -/

@[simp] theorem State.storeFrame_seq (s : State) (f : List Byte) : (s.storeFrame f).seq = s.seq := rfl
@[simp] theorem State.storeFrame_txidx (s : State) (f : List Byte) : (s.storeFrame f).txidx = s.txidx := rfl
@[simp] theorem State.storeFrame_rxcnt (s : State) (f : List Byte) : (s.storeFrame f).rxcnt = s.rxcnt := rfl
@[simp] theorem State.storeFrame_attempt (s : State) (f : List Byte) : (s.storeFrame f).attempt = s.attempt := rfl
@[simp] theorem State.storeFrame_timer (s : State) (f : List Byte) : (s.storeFrame f).timer = s.timer := rfl
@[simp] theorem State.storeFrame_done (s : State) (f : List Byte) : (s.storeFrame f).done = s.done := rfl
@[simp] theorem State.storeFrame_result (s : State) (f : List Byte) : (s.storeFrame f).result = s.result := rfl
@[simp] theorem State.storeFrame_cause (s : State) (f : List Byte) : (s.storeFrame f).cause = s.cause := rfl
@[simp] theorem State.storeFrame_errcode (s : State) (f : List Byte) : (s.storeFrame f).errcode = s.errcode := rfl
@[simp] theorem State.storeFrame_somOk (s : State) (f : List Byte) : (s.storeFrame f).somOk = s.somOk := rfl
@[simp] theorem State.storeFrame_lenOk (s : State) (f : List Byte) : (s.storeFrame f).lenOk = s.lenOk := rfl
@[simp] theorem State.storeFrame_ckOk (s : State) (f : List Byte) : (s.storeFrame f).ckOk = s.ckOk := rfl
@[simp] theorem State.storeFrame_ckCalc (s : State) (f : List Byte) : (s.storeFrame f).ckCalc = s.ckCalc := rfl
@[simp] theorem State.storeFrame_ckAcc (s : State) (f : List Byte) : (s.storeFrame f).ckAcc = s.ckAcc := rfl
@[simp] theorem State.storeFrame_txlen (s : State) (f : List Byte) : (s.storeFrame f).txlen = BitVec.ofNat 9 f.length := rfl
@[simp] theorem State.storeFrame_rxlen (s : State) (f : List Byte) : (s.storeFrame f).rxlen = s.rxlen := rfl
@[simp] theorem State.storeFrame_txbuf (s : State) (f : List Byte) : (s.storeFrame f).txbuf = s.txbuf.writeList 0 f := rfl
@[simp] theorem State.storeFrame_rxbuf (s : State) (f : List Byte) : (s.storeFrame f).rxbuf = s.rxbuf := rfl
@[simp] theorem State.storeFrame_chanOpen (s : State) (f : List Byte) : (s.storeFrame f).chanOpen = s.chanOpen := rfl
@[simp] theorem State.storeFrame_trace (s : State) (f : List Byte) : (s.storeFrame f).trace = s.trace := rfl
@[simp] theorem State.storeFrame_wire (s : State) (f : List Byte) : (s.storeFrame f).wire = s.wire := rfl
@[simp] theorem State.storeFrame_session (s : State) (f : List Byte) : (s.storeFrame f).session = s.session := rfl
@[simp] theorem State.storeFrame_ret (s : State) (f : List Byte) : (s.storeFrame f).ret = s.ret := rfl
@[simp] theorem State.storeFrame_schedule (s : State) (f : List Byte) : (s.storeFrame f).schedule = s.schedule := rfl

/-! ### `putTxlen` -/

@[simp] theorem State.putTxlen_seq (s : State) (n : Len) : (s.putTxlen n).seq = s.seq := rfl
@[simp] theorem State.putTxlen_txidx (s : State) (n : Len) : (s.putTxlen n).txidx = s.txidx := rfl
@[simp] theorem State.putTxlen_rxcnt (s : State) (n : Len) : (s.putTxlen n).rxcnt = s.rxcnt := rfl
@[simp] theorem State.putTxlen_attempt (s : State) (n : Len) : (s.putTxlen n).attempt = s.attempt := rfl
@[simp] theorem State.putTxlen_timer (s : State) (n : Len) : (s.putTxlen n).timer = s.timer := rfl
@[simp] theorem State.putTxlen_done (s : State) (n : Len) : (s.putTxlen n).done = s.done := rfl
@[simp] theorem State.putTxlen_result (s : State) (n : Len) : (s.putTxlen n).result = s.result := rfl
@[simp] theorem State.putTxlen_cause (s : State) (n : Len) : (s.putTxlen n).cause = s.cause := rfl
@[simp] theorem State.putTxlen_errcode (s : State) (n : Len) : (s.putTxlen n).errcode = s.errcode := rfl
@[simp] theorem State.putTxlen_somOk (s : State) (n : Len) : (s.putTxlen n).somOk = s.somOk := rfl
@[simp] theorem State.putTxlen_lenOk (s : State) (n : Len) : (s.putTxlen n).lenOk = s.lenOk := rfl
@[simp] theorem State.putTxlen_ckOk (s : State) (n : Len) : (s.putTxlen n).ckOk = s.ckOk := rfl
@[simp] theorem State.putTxlen_ckCalc (s : State) (n : Len) : (s.putTxlen n).ckCalc = s.ckCalc := rfl
@[simp] theorem State.putTxlen_ckAcc (s : State) (n : Len) : (s.putTxlen n).ckAcc = s.ckAcc := rfl
@[simp] theorem State.putTxlen_txlen (s : State) (n : Len) : (s.putTxlen n).txlen = n := rfl
@[simp] theorem State.putTxlen_rxlen (s : State) (n : Len) : (s.putTxlen n).rxlen = s.rxlen := rfl
@[simp] theorem State.putTxlen_txbuf (s : State) (n : Len) : (s.putTxlen n).txbuf = s.txbuf := rfl
@[simp] theorem State.putTxlen_rxbuf (s : State) (n : Len) : (s.putTxlen n).rxbuf = s.rxbuf := rfl
@[simp] theorem State.putTxlen_chanOpen (s : State) (n : Len) : (s.putTxlen n).chanOpen = s.chanOpen := rfl
@[simp] theorem State.putTxlen_trace (s : State) (n : Len) : (s.putTxlen n).trace = s.trace := rfl
@[simp] theorem State.putTxlen_wire (s : State) (n : Len) : (s.putTxlen n).wire = s.wire := rfl
@[simp] theorem State.putTxlen_session (s : State) (n : Len) : (s.putTxlen n).session = s.session := rfl
@[simp] theorem State.putTxlen_ret (s : State) (n : Len) : (s.putTxlen n).ret = s.ret := rfl
@[simp] theorem State.putTxlen_schedule (s : State) (n : Len) : (s.putTxlen n).schedule = s.schedule := rfl

/-! ### `putRxlen` -/

@[simp] theorem State.putRxlen_seq (s : State) (n : Len) : (s.putRxlen n).seq = s.seq := rfl
@[simp] theorem State.putRxlen_txidx (s : State) (n : Len) : (s.putRxlen n).txidx = s.txidx := rfl
@[simp] theorem State.putRxlen_rxcnt (s : State) (n : Len) : (s.putRxlen n).rxcnt = s.rxcnt := rfl
@[simp] theorem State.putRxlen_attempt (s : State) (n : Len) : (s.putRxlen n).attempt = s.attempt := rfl
@[simp] theorem State.putRxlen_timer (s : State) (n : Len) : (s.putRxlen n).timer = s.timer := rfl
@[simp] theorem State.putRxlen_done (s : State) (n : Len) : (s.putRxlen n).done = s.done := rfl
@[simp] theorem State.putRxlen_result (s : State) (n : Len) : (s.putRxlen n).result = s.result := rfl
@[simp] theorem State.putRxlen_cause (s : State) (n : Len) : (s.putRxlen n).cause = s.cause := rfl
@[simp] theorem State.putRxlen_errcode (s : State) (n : Len) : (s.putRxlen n).errcode = s.errcode := rfl
@[simp] theorem State.putRxlen_somOk (s : State) (n : Len) : (s.putRxlen n).somOk = s.somOk := rfl
@[simp] theorem State.putRxlen_lenOk (s : State) (n : Len) : (s.putRxlen n).lenOk = s.lenOk := rfl
@[simp] theorem State.putRxlen_ckOk (s : State) (n : Len) : (s.putRxlen n).ckOk = s.ckOk := rfl
@[simp] theorem State.putRxlen_ckCalc (s : State) (n : Len) : (s.putRxlen n).ckCalc = s.ckCalc := rfl
@[simp] theorem State.putRxlen_ckAcc (s : State) (n : Len) : (s.putRxlen n).ckAcc = s.ckAcc := rfl
@[simp] theorem State.putRxlen_txlen (s : State) (n : Len) : (s.putRxlen n).txlen = s.txlen := rfl
@[simp] theorem State.putRxlen_rxlen (s : State) (n : Len) : (s.putRxlen n).rxlen = n := rfl
@[simp] theorem State.putRxlen_txbuf (s : State) (n : Len) : (s.putRxlen n).txbuf = s.txbuf := rfl
@[simp] theorem State.putRxlen_rxbuf (s : State) (n : Len) : (s.putRxlen n).rxbuf = s.rxbuf := rfl
@[simp] theorem State.putRxlen_chanOpen (s : State) (n : Len) : (s.putRxlen n).chanOpen = s.chanOpen := rfl
@[simp] theorem State.putRxlen_trace (s : State) (n : Len) : (s.putRxlen n).trace = s.trace := rfl
@[simp] theorem State.putRxlen_wire (s : State) (n : Len) : (s.putRxlen n).wire = s.wire := rfl
@[simp] theorem State.putRxlen_session (s : State) (n : Len) : (s.putRxlen n).session = s.session := rfl
@[simp] theorem State.putRxlen_ret (s : State) (n : Len) : (s.putRxlen n).ret = s.ret := rfl
@[simp] theorem State.putRxlen_schedule (s : State) (n : Len) : (s.putRxlen n).schedule = s.schedule := rfl

/-! ### `cleared` -/

@[simp] theorem State.cleared_seq (s : State) : s.cleared.seq = s.seq := rfl
@[simp] theorem State.cleared_txidx (s : State) : s.cleared.txidx = s.txidx := rfl
@[simp] theorem State.cleared_rxcnt (s : State) : s.cleared.rxcnt = s.rxcnt := rfl
@[simp] theorem State.cleared_attempt (s : State) : s.cleared.attempt = 0#2 := rfl
@[simp] theorem State.cleared_timer (s : State) : s.cleared.timer = s.timer := rfl
@[simp] theorem State.cleared_done (s : State) : s.cleared.done = s.done := rfl
@[simp] theorem State.cleared_result (s : State) : s.cleared.result = s.result := rfl
@[simp] theorem State.cleared_cause (s : State) : s.cleared.cause = s.cause := rfl
@[simp] theorem State.cleared_errcode (s : State) : s.cleared.errcode = 0#8 := rfl
@[simp] theorem State.cleared_somOk (s : State) : s.cleared.somOk = false := rfl
@[simp] theorem State.cleared_lenOk (s : State) : s.cleared.lenOk = false := rfl
@[simp] theorem State.cleared_ckOk (s : State) : s.cleared.ckOk = false := rfl
@[simp] theorem State.cleared_ckCalc (s : State) : s.cleared.ckCalc = 0#8 := rfl
@[simp] theorem State.cleared_ckAcc (s : State) : s.cleared.ckAcc = s.ckAcc := rfl
@[simp] theorem State.cleared_txlen (s : State) : s.cleared.txlen = s.txlen := rfl
@[simp] theorem State.cleared_rxlen (s : State) : s.cleared.rxlen = s.rxlen := rfl
@[simp] theorem State.cleared_txbuf (s : State) : s.cleared.txbuf = s.txbuf := rfl
@[simp] theorem State.cleared_rxbuf (s : State) : s.cleared.rxbuf = s.rxbuf := rfl
@[simp] theorem State.cleared_chanOpen (s : State) : s.cleared.chanOpen = s.chanOpen := rfl
@[simp] theorem State.cleared_trace (s : State) : s.cleared.trace = s.trace := rfl
@[simp] theorem State.cleared_wire (s : State) : s.cleared.wire = s.wire := rfl
@[simp] theorem State.cleared_session (s : State) : s.cleared.session = s.session := rfl
@[simp] theorem State.cleared_ret (s : State) : s.cleared.ret = s.ret := rfl
@[simp] theorem State.cleared_schedule (s : State) : s.cleared.schedule = s.schedule := rfl

/-! ### `accepted` -/

@[simp] theorem State.accepted_seq (s : State) : s.accepted.seq = s.seq := rfl
@[simp] theorem State.accepted_txidx (s : State) : s.accepted.txidx = s.txidx := rfl
@[simp] theorem State.accepted_rxcnt (s : State) : s.accepted.rxcnt = s.rxcnt := rfl
@[simp] theorem State.accepted_attempt (s : State) : s.accepted.attempt = 0#2 := rfl
@[simp] theorem State.accepted_timer (s : State) : s.accepted.timer = s.timer := rfl
@[simp] theorem State.accepted_done (s : State) : s.accepted.done = false := rfl
@[simp] theorem State.accepted_result (s : State) : s.accepted.result = .none := rfl
@[simp] theorem State.accepted_cause (s : State) : s.accepted.cause = .none := rfl
@[simp] theorem State.accepted_errcode (s : State) : s.accepted.errcode = 0#8 := rfl
@[simp] theorem State.accepted_somOk (s : State) : s.accepted.somOk = false := rfl
@[simp] theorem State.accepted_lenOk (s : State) : s.accepted.lenOk = false := rfl
@[simp] theorem State.accepted_ckOk (s : State) : s.accepted.ckOk = false := rfl
@[simp] theorem State.accepted_ckCalc (s : State) : s.accepted.ckCalc = 0#8 := rfl
@[simp] theorem State.accepted_ckAcc (s : State) : s.accepted.ckAcc = s.ckAcc := rfl
@[simp] theorem State.accepted_txlen (s : State) : s.accepted.txlen = s.txlen := rfl
@[simp] theorem State.accepted_rxlen (s : State) : s.accepted.rxlen = s.rxlen := rfl
@[simp] theorem State.accepted_txbuf (s : State) : s.accepted.txbuf = s.txbuf := rfl
@[simp] theorem State.accepted_rxbuf (s : State) : s.accepted.rxbuf = s.rxbuf := rfl
@[simp] theorem State.accepted_chanOpen (s : State) : s.accepted.chanOpen = s.chanOpen := rfl
@[simp] theorem State.accepted_trace (s : State) : s.accepted.trace = s.trace := rfl
@[simp] theorem State.accepted_wire (s : State) : s.accepted.wire = s.wire := rfl
@[simp] theorem State.accepted_session (s : State) : s.accepted.session = s.session := rfl
@[simp] theorem State.accepted_ret (s : State) : s.accepted.ret = s.ret := rfl
@[simp] theorem State.accepted_schedule (s : State) : s.accepted.schedule = s.schedule := rfl

/-! ### `startFailed` -/

@[simp] theorem State.startFailed_seq (s : State) (c : Cause) : (s.startFailed c).seq = .idle := rfl
@[simp] theorem State.startFailed_txidx (s : State) (c : Cause) : (s.startFailed c).txidx = 0#9 := rfl
@[simp] theorem State.startFailed_rxcnt (s : State) (c : Cause) : (s.startFailed c).rxcnt = 0#9 := rfl
@[simp] theorem State.startFailed_attempt (s : State) (c : Cause) : (s.startFailed c).attempt = 0#2 := rfl
@[simp] theorem State.startFailed_timer (s : State) (c : Cause) : (s.startFailed c).timer = s.timer := rfl
@[simp] theorem State.startFailed_done (s : State) (c : Cause) : (s.startFailed c).done = true := rfl
@[simp] theorem State.startFailed_result (s : State) (c : Cause) : (s.startFailed c).result = .failProtocol := rfl
@[simp] theorem State.startFailed_cause (s : State) (c : Cause) : (s.startFailed c).cause = c := rfl
@[simp] theorem State.startFailed_errcode (s : State) (c : Cause) : (s.startFailed c).errcode = 0#8 := rfl
@[simp] theorem State.startFailed_somOk (s : State) (c : Cause) : (s.startFailed c).somOk = false := rfl
@[simp] theorem State.startFailed_lenOk (s : State) (c : Cause) : (s.startFailed c).lenOk = false := rfl
@[simp] theorem State.startFailed_ckOk (s : State) (c : Cause) : (s.startFailed c).ckOk = false := rfl
@[simp] theorem State.startFailed_ckCalc (s : State) (c : Cause) : (s.startFailed c).ckCalc = 0#8 := rfl
@[simp] theorem State.startFailed_ckAcc (s : State) (c : Cause) : (s.startFailed c).ckAcc = s.ckAcc := rfl
@[simp] theorem State.startFailed_txlen (s : State) (c : Cause) : (s.startFailed c).txlen = s.txlen := rfl
@[simp] theorem State.startFailed_rxlen (s : State) (c : Cause) : (s.startFailed c).rxlen = s.rxlen := rfl
@[simp] theorem State.startFailed_txbuf (s : State) (c : Cause) : (s.startFailed c).txbuf = s.txbuf := rfl
@[simp] theorem State.startFailed_rxbuf (s : State) (c : Cause) : (s.startFailed c).rxbuf = s.rxbuf := rfl
@[simp] theorem State.startFailed_chanOpen (s : State) (c : Cause) : (s.startFailed c).chanOpen = s.chanOpen := rfl
@[simp] theorem State.startFailed_trace (s : State) (c : Cause) : (s.startFailed c).trace = s.trace := rfl
@[simp] theorem State.startFailed_wire (s : State) (c : Cause) : (s.startFailed c).wire = s.wire := rfl
@[simp] theorem State.startFailed_session (s : State) (c : Cause) : (s.startFailed c).session = s.session := rfl
@[simp] theorem State.startFailed_ret (s : State) (c : Cause) : (s.startFailed c).ret = s.ret := rfl
@[simp] theorem State.startFailed_schedule (s : State) (c : Cause) : (s.startFailed c).schedule = s.schedule := rfl

/-! ### `begun` -/

@[simp] theorem State.begun_seq (s : State) (b : List Byte) : (s.begun b).seq = .write := rfl
@[simp] theorem State.begun_txidx (s : State) (b : List Byte) : (s.begun b).txidx = 0#9 := rfl
@[simp] theorem State.begun_rxcnt (s : State) (b : List Byte) : (s.begun b).rxcnt = 0#9 := rfl
@[simp] theorem State.begun_attempt (s : State) (b : List Byte) : (s.begun b).attempt = s.attempt + 1#2 := rfl
@[simp] theorem State.begun_timer (s : State) (b : List Byte) : (s.begun b).timer = s.timer := rfl
@[simp] theorem State.begun_done (s : State) (b : List Byte) : (s.begun b).done = s.done := rfl
@[simp] theorem State.begun_result (s : State) (b : List Byte) : (s.begun b).result = s.result := rfl
@[simp] theorem State.begun_cause (s : State) (b : List Byte) : (s.begun b).cause = s.cause := rfl
@[simp] theorem State.begun_errcode (s : State) (b : List Byte) : (s.begun b).errcode = s.errcode := rfl
@[simp] theorem State.begun_somOk (s : State) (b : List Byte) : (s.begun b).somOk = s.somOk := rfl
@[simp] theorem State.begun_lenOk (s : State) (b : List Byte) : (s.begun b).lenOk = s.lenOk := rfl
@[simp] theorem State.begun_ckOk (s : State) (b : List Byte) : (s.begun b).ckOk = s.ckOk := rfl
@[simp] theorem State.begun_ckCalc (s : State) (b : List Byte) : (s.begun b).ckCalc = s.ckCalc := rfl
@[simp] theorem State.begun_ckAcc (s : State) (b : List Byte) : (s.begun b).ckAcc = s.ckAcc := rfl
@[simp] theorem State.begun_txlen (s : State) (b : List Byte) : (s.begun b).txlen = s.txlen := rfl
@[simp] theorem State.begun_rxlen (s : State) (b : List Byte) : (s.begun b).rxlen = s.rxlen := rfl
@[simp] theorem State.begun_txbuf (s : State) (b : List Byte) : (s.begun b).txbuf = s.txbuf := rfl
@[simp] theorem State.begun_rxbuf (s : State) (b : List Byte) : (s.begun b).rxbuf = s.rxbuf := rfl
@[simp] theorem State.begun_chanOpen (s : State) (b : List Byte) : (s.begun b).chanOpen = s.chanOpen := rfl
@[simp] theorem State.begun_trace (s : State) (b : List Byte) : (s.begun b).trace = s.trace ++ [.tx (s.attempt.toNat + 1) b] := rfl
@[simp] theorem State.begun_wire (s : State) (b : List Byte) : (s.begun b).wire = s.wire := rfl
@[simp] theorem State.begun_session (s : State) (b : List Byte) : (s.begun b).session = s.session := rfl
@[simp] theorem State.begun_ret (s : State) (b : List Byte) : (s.begun b).ret = s.ret := rfl
@[simp] theorem State.begun_schedule (s : State) (b : List Byte) : (s.begun b).schedule = s.schedule := rfl

/-! ### `complete` -/

@[simp] theorem State.complete_seq (s : State) (r : Verdict) : (s.complete r).seq = .idle := rfl
@[simp] theorem State.complete_txidx (s : State) (r : Verdict) : (s.complete r).txidx = s.txidx := rfl
@[simp] theorem State.complete_rxcnt (s : State) (r : Verdict) : (s.complete r).rxcnt = s.rxcnt := rfl
@[simp] theorem State.complete_attempt (s : State) (r : Verdict) : (s.complete r).attempt = s.attempt := rfl
@[simp] theorem State.complete_timer (s : State) (r : Verdict) : (s.complete r).timer = s.timer := rfl
@[simp] theorem State.complete_done (s : State) (r : Verdict) : (s.complete r).done = true := rfl
@[simp] theorem State.complete_result (s : State) (r : Verdict) : (s.complete r).result = r := rfl
@[simp] theorem State.complete_cause (s : State) (r : Verdict) : (s.complete r).cause = s.cause := rfl
@[simp] theorem State.complete_errcode (s : State) (r : Verdict) : (s.complete r).errcode = s.errcode := rfl
@[simp] theorem State.complete_somOk (s : State) (r : Verdict) : (s.complete r).somOk = s.somOk := rfl
@[simp] theorem State.complete_lenOk (s : State) (r : Verdict) : (s.complete r).lenOk = s.lenOk := rfl
@[simp] theorem State.complete_ckOk (s : State) (r : Verdict) : (s.complete r).ckOk = s.ckOk := rfl
@[simp] theorem State.complete_ckCalc (s : State) (r : Verdict) : (s.complete r).ckCalc = s.ckCalc := rfl
@[simp] theorem State.complete_ckAcc (s : State) (r : Verdict) : (s.complete r).ckAcc = s.ckAcc := rfl
@[simp] theorem State.complete_txlen (s : State) (r : Verdict) : (s.complete r).txlen = s.txlen := rfl
@[simp] theorem State.complete_rxlen (s : State) (r : Verdict) : (s.complete r).rxlen = s.rxlen := rfl
@[simp] theorem State.complete_txbuf (s : State) (r : Verdict) : (s.complete r).txbuf = s.txbuf := rfl
@[simp] theorem State.complete_rxbuf (s : State) (r : Verdict) : (s.complete r).rxbuf = s.rxbuf := rfl
@[simp] theorem State.complete_chanOpen (s : State) (r : Verdict) : (s.complete r).chanOpen = s.chanOpen := rfl
@[simp] theorem State.complete_trace (s : State) (r : Verdict) : (s.complete r).trace = s.trace := rfl
@[simp] theorem State.complete_wire (s : State) (r : Verdict) : (s.complete r).wire = s.wire := rfl
@[simp] theorem State.complete_session (s : State) (r : Verdict) : (s.complete r).session = s.session := rfl
@[simp] theorem State.complete_ret (s : State) (r : Verdict) : (s.complete r).ret = s.ret := rfl
@[simp] theorem State.complete_schedule (s : State) (r : Verdict) : (s.complete r).schedule = s.schedule := rfl

/-! ### `sent` -/

@[simp] theorem State.sent_seq (s : State) (b : Byte) : (s.sent b).seq = s.seq := rfl
@[simp] theorem State.sent_txidx (s : State) (b : Byte) : (s.sent b).txidx = BitVec.ofNat 9 (s.txidx.toNat + 1) := rfl
@[simp] theorem State.sent_rxcnt (s : State) (b : Byte) : (s.sent b).rxcnt = s.rxcnt := rfl
@[simp] theorem State.sent_attempt (s : State) (b : Byte) : (s.sent b).attempt = s.attempt := rfl
@[simp] theorem State.sent_timer (s : State) (b : Byte) : (s.sent b).timer = s.timer := rfl
@[simp] theorem State.sent_done (s : State) (b : Byte) : (s.sent b).done = s.done := rfl
@[simp] theorem State.sent_result (s : State) (b : Byte) : (s.sent b).result = s.result := rfl
@[simp] theorem State.sent_cause (s : State) (b : Byte) : (s.sent b).cause = s.cause := rfl
@[simp] theorem State.sent_errcode (s : State) (b : Byte) : (s.sent b).errcode = s.errcode := rfl
@[simp] theorem State.sent_somOk (s : State) (b : Byte) : (s.sent b).somOk = s.somOk := rfl
@[simp] theorem State.sent_lenOk (s : State) (b : Byte) : (s.sent b).lenOk = s.lenOk := rfl
@[simp] theorem State.sent_ckOk (s : State) (b : Byte) : (s.sent b).ckOk = s.ckOk := rfl
@[simp] theorem State.sent_ckCalc (s : State) (b : Byte) : (s.sent b).ckCalc = s.ckCalc := rfl
@[simp] theorem State.sent_ckAcc (s : State) (b : Byte) : (s.sent b).ckAcc = s.ckAcc := rfl
@[simp] theorem State.sent_txlen (s : State) (b : Byte) : (s.sent b).txlen = s.txlen := rfl
@[simp] theorem State.sent_rxlen (s : State) (b : Byte) : (s.sent b).rxlen = s.rxlen := rfl
@[simp] theorem State.sent_txbuf (s : State) (b : Byte) : (s.sent b).txbuf = s.txbuf := rfl
@[simp] theorem State.sent_rxbuf (s : State) (b : Byte) : (s.sent b).rxbuf = s.rxbuf := rfl
@[simp] theorem State.sent_chanOpen (s : State) (b : Byte) : (s.sent b).chanOpen = s.chanOpen := rfl
@[simp] theorem State.sent_trace (s : State) (b : Byte) : (s.sent b).trace = s.trace := rfl
@[simp] theorem State.sent_wire (s : State) (b : Byte) : (s.sent b).wire = s.wire ++ [b] := rfl
@[simp] theorem State.sent_session (s : State) (b : Byte) : (s.sent b).session = s.session := rfl
@[simp] theorem State.sent_ret (s : State) (b : Byte) : (s.sent b).ret = s.ret := rfl
@[simp] theorem State.sent_schedule (s : State) (b : Byte) : (s.sent b).schedule = s.schedule := rfl

/-! ### `enterRead` -/

@[simp] theorem State.enterRead_seq (s : State) : s.enterRead.seq = .read := rfl
@[simp] theorem State.enterRead_txidx (s : State) : s.enterRead.txidx = s.txidx := rfl
@[simp] theorem State.enterRead_rxcnt (s : State) : s.enterRead.rxcnt = 0#9 := rfl
@[simp] theorem State.enterRead_attempt (s : State) : s.enterRead.attempt = s.attempt := rfl
@[simp] theorem State.enterRead_timer (s : State) : s.enterRead.timer = Config.tRd := rfl
@[simp] theorem State.enterRead_done (s : State) : s.enterRead.done = s.done := rfl
@[simp] theorem State.enterRead_result (s : State) : s.enterRead.result = s.result := rfl
@[simp] theorem State.enterRead_cause (s : State) : s.enterRead.cause = s.cause := rfl
@[simp] theorem State.enterRead_errcode (s : State) : s.enterRead.errcode = s.errcode := rfl
@[simp] theorem State.enterRead_somOk (s : State) : s.enterRead.somOk = s.somOk := rfl
@[simp] theorem State.enterRead_lenOk (s : State) : s.enterRead.lenOk = s.lenOk := rfl
@[simp] theorem State.enterRead_ckOk (s : State) : s.enterRead.ckOk = s.ckOk := rfl
@[simp] theorem State.enterRead_ckCalc (s : State) : s.enterRead.ckCalc = s.ckCalc := rfl
@[simp] theorem State.enterRead_ckAcc (s : State) : s.enterRead.ckAcc = 0#8 := rfl
@[simp] theorem State.enterRead_txlen (s : State) : s.enterRead.txlen = s.txlen := rfl
@[simp] theorem State.enterRead_rxlen (s : State) : s.enterRead.rxlen = s.rxlen := rfl
@[simp] theorem State.enterRead_txbuf (s : State) : s.enterRead.txbuf = s.txbuf := rfl
@[simp] theorem State.enterRead_rxbuf (s : State) : s.enterRead.rxbuf = s.rxbuf := rfl
@[simp] theorem State.enterRead_chanOpen (s : State) : s.enterRead.chanOpen = s.chanOpen := rfl
@[simp] theorem State.enterRead_trace (s : State) : s.enterRead.trace = s.trace := rfl
@[simp] theorem State.enterRead_wire (s : State) : s.enterRead.wire = s.wire := rfl
@[simp] theorem State.enterRead_session (s : State) : s.enterRead.session = s.session := rfl
@[simp] theorem State.enterRead_ret (s : State) : s.enterRead.ret = s.ret := rfl
@[simp] theorem State.enterRead_schedule (s : State) : s.enterRead.schedule = s.schedule := rfl

/-! ### `received` -/

@[simp] theorem State.received_seq (s : State) (b : Byte) : (s.received b).seq = if s.rxcnt.toNat + 1 = s.rxlen.toNat then .check else s.seq := rfl
@[simp] theorem State.received_txidx (s : State) (b : Byte) : (s.received b).txidx = s.txidx := rfl
@[simp] theorem State.received_rxcnt (s : State) (b : Byte) : (s.received b).rxcnt = BitVec.ofNat 9 (s.rxcnt.toNat + 1) := rfl
@[simp] theorem State.received_attempt (s : State) (b : Byte) : (s.received b).attempt = s.attempt := rfl
@[simp] theorem State.received_timer (s : State) (b : Byte) : (s.received b).timer = s.timer := rfl
@[simp] theorem State.received_done (s : State) (b : Byte) : (s.received b).done = s.done := rfl
@[simp] theorem State.received_result (s : State) (b : Byte) : (s.received b).result = s.result := rfl
@[simp] theorem State.received_cause (s : State) (b : Byte) : (s.received b).cause = s.cause := rfl
@[simp] theorem State.received_errcode (s : State) (b : Byte) : (s.received b).errcode = s.errcode := rfl
@[simp] theorem State.received_somOk (s : State) (b : Byte) : (s.received b).somOk = s.somOk := rfl
@[simp] theorem State.received_lenOk (s : State) (b : Byte) : (s.received b).lenOk = s.lenOk := rfl
@[simp] theorem State.received_ckOk (s : State) (b : Byte) : (s.received b).ckOk = s.ckOk := rfl
@[simp] theorem State.received_ckCalc (s : State) (b : Byte) : (s.received b).ckCalc = s.ckCalc := rfl
@[simp] theorem State.received_ckAcc (s : State) (b : Byte) : (s.received b).ckAcc = accumulate s b := rfl
@[simp] theorem State.received_txlen (s : State) (b : Byte) : (s.received b).txlen = s.txlen := rfl
@[simp] theorem State.received_rxlen (s : State) (b : Byte) : (s.received b).rxlen = s.rxlen := rfl
@[simp] theorem State.received_txbuf (s : State) (b : Byte) : (s.received b).txbuf = s.txbuf := rfl
@[simp] theorem State.received_rxbuf (s : State) (b : Byte) : (s.received b).rxbuf = s.rxbuf.write s.rxcnt.toNat b := rfl
@[simp] theorem State.received_chanOpen (s : State) (b : Byte) : (s.received b).chanOpen = s.chanOpen := rfl
@[simp] theorem State.received_trace (s : State) (b : Byte) : (s.received b).trace = s.trace := rfl
@[simp] theorem State.received_wire (s : State) (b : Byte) : (s.received b).wire = s.wire := rfl
@[simp] theorem State.received_session (s : State) (b : Byte) : (s.received b).session = s.session := rfl
@[simp] theorem State.received_ret (s : State) (b : Byte) : (s.received b).ret = s.ret := rfl
@[simp] theorem State.received_schedule (s : State) (b : Byte) : (s.received b).schedule = s.schedule := rfl

/-! ### `putTimer` -/

@[simp] theorem State.putTimer_seq (s : State) (n : Word16) : (s.putTimer n).seq = s.seq := rfl
@[simp] theorem State.putTimer_txidx (s : State) (n : Word16) : (s.putTimer n).txidx = s.txidx := rfl
@[simp] theorem State.putTimer_rxcnt (s : State) (n : Word16) : (s.putTimer n).rxcnt = s.rxcnt := rfl
@[simp] theorem State.putTimer_attempt (s : State) (n : Word16) : (s.putTimer n).attempt = s.attempt := rfl
@[simp] theorem State.putTimer_timer (s : State) (n : Word16) : (s.putTimer n).timer = n := rfl
@[simp] theorem State.putTimer_done (s : State) (n : Word16) : (s.putTimer n).done = s.done := rfl
@[simp] theorem State.putTimer_result (s : State) (n : Word16) : (s.putTimer n).result = s.result := rfl
@[simp] theorem State.putTimer_cause (s : State) (n : Word16) : (s.putTimer n).cause = s.cause := rfl
@[simp] theorem State.putTimer_errcode (s : State) (n : Word16) : (s.putTimer n).errcode = s.errcode := rfl
@[simp] theorem State.putTimer_somOk (s : State) (n : Word16) : (s.putTimer n).somOk = s.somOk := rfl
@[simp] theorem State.putTimer_lenOk (s : State) (n : Word16) : (s.putTimer n).lenOk = s.lenOk := rfl
@[simp] theorem State.putTimer_ckOk (s : State) (n : Word16) : (s.putTimer n).ckOk = s.ckOk := rfl
@[simp] theorem State.putTimer_ckCalc (s : State) (n : Word16) : (s.putTimer n).ckCalc = s.ckCalc := rfl
@[simp] theorem State.putTimer_ckAcc (s : State) (n : Word16) : (s.putTimer n).ckAcc = s.ckAcc := rfl
@[simp] theorem State.putTimer_txlen (s : State) (n : Word16) : (s.putTimer n).txlen = s.txlen := rfl
@[simp] theorem State.putTimer_rxlen (s : State) (n : Word16) : (s.putTimer n).rxlen = s.rxlen := rfl
@[simp] theorem State.putTimer_txbuf (s : State) (n : Word16) : (s.putTimer n).txbuf = s.txbuf := rfl
@[simp] theorem State.putTimer_rxbuf (s : State) (n : Word16) : (s.putTimer n).rxbuf = s.rxbuf := rfl
@[simp] theorem State.putTimer_chanOpen (s : State) (n : Word16) : (s.putTimer n).chanOpen = s.chanOpen := rfl
@[simp] theorem State.putTimer_trace (s : State) (n : Word16) : (s.putTimer n).trace = s.trace := rfl
@[simp] theorem State.putTimer_wire (s : State) (n : Word16) : (s.putTimer n).wire = s.wire := rfl
@[simp] theorem State.putTimer_session (s : State) (n : Word16) : (s.putTimer n).session = s.session := rfl
@[simp] theorem State.putTimer_ret (s : State) (n : Word16) : (s.putTimer n).ret = s.ret := rfl
@[simp] theorem State.putTimer_schedule (s : State) (n : Word16) : (s.putTimer n).schedule = s.schedule := rfl

/-! ### `putErrcode` -/

@[simp] theorem State.putErrcode_seq (s : State) (e : ChanErr) : (s.putErrcode e).seq = s.seq := rfl
@[simp] theorem State.putErrcode_txidx (s : State) (e : ChanErr) : (s.putErrcode e).txidx = s.txidx := rfl
@[simp] theorem State.putErrcode_rxcnt (s : State) (e : ChanErr) : (s.putErrcode e).rxcnt = s.rxcnt := rfl
@[simp] theorem State.putErrcode_attempt (s : State) (e : ChanErr) : (s.putErrcode e).attempt = s.attempt := rfl
@[simp] theorem State.putErrcode_timer (s : State) (e : ChanErr) : (s.putErrcode e).timer = s.timer := rfl
@[simp] theorem State.putErrcode_done (s : State) (e : ChanErr) : (s.putErrcode e).done = s.done := rfl
@[simp] theorem State.putErrcode_result (s : State) (e : ChanErr) : (s.putErrcode e).result = s.result := rfl
@[simp] theorem State.putErrcode_cause (s : State) (e : ChanErr) : (s.putErrcode e).cause = s.cause := rfl
@[simp] theorem State.putErrcode_errcode (s : State) (e : ChanErr) : (s.putErrcode e).errcode = e := rfl
@[simp] theorem State.putErrcode_somOk (s : State) (e : ChanErr) : (s.putErrcode e).somOk = s.somOk := rfl
@[simp] theorem State.putErrcode_lenOk (s : State) (e : ChanErr) : (s.putErrcode e).lenOk = s.lenOk := rfl
@[simp] theorem State.putErrcode_ckOk (s : State) (e : ChanErr) : (s.putErrcode e).ckOk = s.ckOk := rfl
@[simp] theorem State.putErrcode_ckCalc (s : State) (e : ChanErr) : (s.putErrcode e).ckCalc = s.ckCalc := rfl
@[simp] theorem State.putErrcode_ckAcc (s : State) (e : ChanErr) : (s.putErrcode e).ckAcc = s.ckAcc := rfl
@[simp] theorem State.putErrcode_txlen (s : State) (e : ChanErr) : (s.putErrcode e).txlen = s.txlen := rfl
@[simp] theorem State.putErrcode_rxlen (s : State) (e : ChanErr) : (s.putErrcode e).rxlen = s.rxlen := rfl
@[simp] theorem State.putErrcode_txbuf (s : State) (e : ChanErr) : (s.putErrcode e).txbuf = s.txbuf := rfl
@[simp] theorem State.putErrcode_rxbuf (s : State) (e : ChanErr) : (s.putErrcode e).rxbuf = s.rxbuf := rfl
@[simp] theorem State.putErrcode_chanOpen (s : State) (e : ChanErr) : (s.putErrcode e).chanOpen = s.chanOpen := rfl
@[simp] theorem State.putErrcode_trace (s : State) (e : ChanErr) : (s.putErrcode e).trace = s.trace := rfl
@[simp] theorem State.putErrcode_wire (s : State) (e : ChanErr) : (s.putErrcode e).wire = s.wire := rfl
@[simp] theorem State.putErrcode_session (s : State) (e : ChanErr) : (s.putErrcode e).session = s.session := rfl
@[simp] theorem State.putErrcode_ret (s : State) (e : ChanErr) : (s.putErrcode e).ret = s.ret := rfl
@[simp] theorem State.putErrcode_schedule (s : State) (e : ChanErr) : (s.putErrcode e).schedule = s.schedule := rfl

/-! ### `checked` -/

@[simp] theorem State.checked_seq (s : State) (f : List Byte) : (s.checked f).seq = s.seq := rfl
@[simp] theorem State.checked_txidx (s : State) (f : List Byte) : (s.checked f).txidx = s.txidx := rfl
@[simp] theorem State.checked_rxcnt (s : State) (f : List Byte) : (s.checked f).rxcnt = s.rxcnt := rfl
@[simp] theorem State.checked_attempt (s : State) (f : List Byte) : (s.checked f).attempt = s.attempt := rfl
@[simp] theorem State.checked_timer (s : State) (f : List Byte) : (s.checked f).timer = s.timer := rfl
@[simp] theorem State.checked_done (s : State) (f : List Byte) : (s.checked f).done = s.done := rfl
@[simp] theorem State.checked_result (s : State) (f : List Byte) : (s.checked f).result = s.result := rfl
@[simp] theorem State.checked_cause (s : State) (f : List Byte) : (s.checked f).cause = s.cause := rfl
@[simp] theorem State.checked_errcode (s : State) (f : List Byte) : (s.checked f).errcode = s.errcode := rfl
@[simp] theorem State.checked_somOk (s : State) (f : List Byte) : (s.checked f).somOk = isSomOk f := rfl
@[simp] theorem State.checked_lenOk (s : State) (f : List Byte) : (s.checked f).lenOk = isLenOk f := rfl
@[simp] theorem State.checked_ckOk (s : State) (f : List Byte) : (s.checked f).ckOk = isCkOk f := rfl
@[simp] theorem State.checked_ckCalc (s : State) (f : List Byte) : (s.checked f).ckCalc = cksum f := rfl
@[simp] theorem State.checked_ckAcc (s : State) (f : List Byte) : (s.checked f).ckAcc = s.ckAcc := rfl
@[simp] theorem State.checked_txlen (s : State) (f : List Byte) : (s.checked f).txlen = s.txlen := rfl
@[simp] theorem State.checked_rxlen (s : State) (f : List Byte) : (s.checked f).rxlen = s.rxlen := rfl
@[simp] theorem State.checked_txbuf (s : State) (f : List Byte) : (s.checked f).txbuf = s.txbuf := rfl
@[simp] theorem State.checked_rxbuf (s : State) (f : List Byte) : (s.checked f).rxbuf = s.rxbuf := rfl
@[simp] theorem State.checked_chanOpen (s : State) (f : List Byte) : (s.checked f).chanOpen = s.chanOpen := rfl
@[simp] theorem State.checked_trace (s : State) (f : List Byte) : (s.checked f).trace = s.trace ++ [.rx s.attempt.toNat f] := rfl
@[simp] theorem State.checked_wire (s : State) (f : List Byte) : (s.checked f).wire = s.wire := rfl
@[simp] theorem State.checked_session (s : State) (f : List Byte) : (s.checked f).session = s.session := rfl
@[simp] theorem State.checked_ret (s : State) (f : List Byte) : (s.checked f).ret = s.ret := rfl
@[simp] theorem State.checked_schedule (s : State) (f : List Byte) : (s.checked f).schedule = s.schedule := rfl

/-! ### `keepVersion` -/

@[simp] theorem State.keepVersion_seq (s : State) (v : VersionInfo) : (s.keepVersion v).seq = s.seq := rfl
@[simp] theorem State.keepVersion_txidx (s : State) (v : VersionInfo) : (s.keepVersion v).txidx = s.txidx := rfl
@[simp] theorem State.keepVersion_rxcnt (s : State) (v : VersionInfo) : (s.keepVersion v).rxcnt = s.rxcnt := rfl
@[simp] theorem State.keepVersion_attempt (s : State) (v : VersionInfo) : (s.keepVersion v).attempt = s.attempt := rfl
@[simp] theorem State.keepVersion_timer (s : State) (v : VersionInfo) : (s.keepVersion v).timer = s.timer := rfl
@[simp] theorem State.keepVersion_done (s : State) (v : VersionInfo) : (s.keepVersion v).done = s.done := rfl
@[simp] theorem State.keepVersion_result (s : State) (v : VersionInfo) : (s.keepVersion v).result = s.result := rfl
@[simp] theorem State.keepVersion_cause (s : State) (v : VersionInfo) : (s.keepVersion v).cause = s.cause := rfl
@[simp] theorem State.keepVersion_errcode (s : State) (v : VersionInfo) : (s.keepVersion v).errcode = s.errcode := rfl
@[simp] theorem State.keepVersion_somOk (s : State) (v : VersionInfo) : (s.keepVersion v).somOk = s.somOk := rfl
@[simp] theorem State.keepVersion_lenOk (s : State) (v : VersionInfo) : (s.keepVersion v).lenOk = s.lenOk := rfl
@[simp] theorem State.keepVersion_ckOk (s : State) (v : VersionInfo) : (s.keepVersion v).ckOk = s.ckOk := rfl
@[simp] theorem State.keepVersion_ckCalc (s : State) (v : VersionInfo) : (s.keepVersion v).ckCalc = s.ckCalc := rfl
@[simp] theorem State.keepVersion_ckAcc (s : State) (v : VersionInfo) : (s.keepVersion v).ckAcc = s.ckAcc := rfl
@[simp] theorem State.keepVersion_txlen (s : State) (v : VersionInfo) : (s.keepVersion v).txlen = s.txlen := rfl
@[simp] theorem State.keepVersion_rxlen (s : State) (v : VersionInfo) : (s.keepVersion v).rxlen = s.rxlen := rfl
@[simp] theorem State.keepVersion_txbuf (s : State) (v : VersionInfo) : (s.keepVersion v).txbuf = s.txbuf := rfl
@[simp] theorem State.keepVersion_rxbuf (s : State) (v : VersionInfo) : (s.keepVersion v).rxbuf = s.rxbuf := rfl
@[simp] theorem State.keepVersion_chanOpen (s : State) (v : VersionInfo) : (s.keepVersion v).chanOpen = s.chanOpen := rfl
@[simp] theorem State.keepVersion_trace (s : State) (v : VersionInfo) : (s.keepVersion v).trace = s.trace := rfl
@[simp] theorem State.keepVersion_wire (s : State) (v : VersionInfo) : (s.keepVersion v).wire = s.wire := rfl
@[simp] theorem State.keepVersion_session (s : State) (v : VersionInfo) : (s.keepVersion v).session = { s.session with versionInfo := some (s.session.versionInfo.getD v) } := rfl
@[simp] theorem State.keepVersion_ret (s : State) (v : VersionInfo) : (s.keepVersion v).ret = s.ret := rfl
@[simp] theorem State.keepVersion_schedule (s : State) (v : VersionInfo) : (s.keepVersion v).schedule = s.schedule := rfl

/-! ### `keepHeaterCount` -/

@[simp] theorem State.keepHeaterCount_seq (s : State) (n : Byte) : (s.keepHeaterCount n).seq = s.seq := rfl
@[simp] theorem State.keepHeaterCount_txidx (s : State) (n : Byte) : (s.keepHeaterCount n).txidx = s.txidx := rfl
@[simp] theorem State.keepHeaterCount_rxcnt (s : State) (n : Byte) : (s.keepHeaterCount n).rxcnt = s.rxcnt := rfl
@[simp] theorem State.keepHeaterCount_attempt (s : State) (n : Byte) : (s.keepHeaterCount n).attempt = s.attempt := rfl
@[simp] theorem State.keepHeaterCount_timer (s : State) (n : Byte) : (s.keepHeaterCount n).timer = s.timer := rfl
@[simp] theorem State.keepHeaterCount_done (s : State) (n : Byte) : (s.keepHeaterCount n).done = s.done := rfl
@[simp] theorem State.keepHeaterCount_result (s : State) (n : Byte) : (s.keepHeaterCount n).result = s.result := rfl
@[simp] theorem State.keepHeaterCount_cause (s : State) (n : Byte) : (s.keepHeaterCount n).cause = s.cause := rfl
@[simp] theorem State.keepHeaterCount_errcode (s : State) (n : Byte) : (s.keepHeaterCount n).errcode = s.errcode := rfl
@[simp] theorem State.keepHeaterCount_somOk (s : State) (n : Byte) : (s.keepHeaterCount n).somOk = s.somOk := rfl
@[simp] theorem State.keepHeaterCount_lenOk (s : State) (n : Byte) : (s.keepHeaterCount n).lenOk = s.lenOk := rfl
@[simp] theorem State.keepHeaterCount_ckOk (s : State) (n : Byte) : (s.keepHeaterCount n).ckOk = s.ckOk := rfl
@[simp] theorem State.keepHeaterCount_ckCalc (s : State) (n : Byte) : (s.keepHeaterCount n).ckCalc = s.ckCalc := rfl
@[simp] theorem State.keepHeaterCount_ckAcc (s : State) (n : Byte) : (s.keepHeaterCount n).ckAcc = s.ckAcc := rfl
@[simp] theorem State.keepHeaterCount_txlen (s : State) (n : Byte) : (s.keepHeaterCount n).txlen = s.txlen := rfl
@[simp] theorem State.keepHeaterCount_rxlen (s : State) (n : Byte) : (s.keepHeaterCount n).rxlen = s.rxlen := rfl
@[simp] theorem State.keepHeaterCount_txbuf (s : State) (n : Byte) : (s.keepHeaterCount n).txbuf = s.txbuf := rfl
@[simp] theorem State.keepHeaterCount_rxbuf (s : State) (n : Byte) : (s.keepHeaterCount n).rxbuf = s.rxbuf := rfl
@[simp] theorem State.keepHeaterCount_chanOpen (s : State) (n : Byte) : (s.keepHeaterCount n).chanOpen = s.chanOpen := rfl
@[simp] theorem State.keepHeaterCount_trace (s : State) (n : Byte) : (s.keepHeaterCount n).trace = s.trace := rfl
@[simp] theorem State.keepHeaterCount_wire (s : State) (n : Byte) : (s.keepHeaterCount n).wire = s.wire := rfl
@[simp] theorem State.keepHeaterCount_session (s : State) (n : Byte) : (s.keepHeaterCount n).session = { s.session with heaterCount := some n } := rfl
@[simp] theorem State.keepHeaterCount_ret (s : State) (n : Byte) : (s.keepHeaterCount n).ret = s.ret := rfl
@[simp] theorem State.keepHeaterCount_schedule (s : State) (n : Byte) : (s.keepHeaterCount n).schedule = s.schedule := rfl

/-! ### `driveChanOpen` -/

@[simp] theorem State.driveChanOpen_seq (s : State) (l : Bool) : (s.driveChanOpen l).seq = s.seq := rfl
@[simp] theorem State.driveChanOpen_txidx (s : State) (l : Bool) : (s.driveChanOpen l).txidx = s.txidx := rfl
@[simp] theorem State.driveChanOpen_rxcnt (s : State) (l : Bool) : (s.driveChanOpen l).rxcnt = s.rxcnt := rfl
@[simp] theorem State.driveChanOpen_attempt (s : State) (l : Bool) : (s.driveChanOpen l).attempt = s.attempt := rfl
@[simp] theorem State.driveChanOpen_timer (s : State) (l : Bool) : (s.driveChanOpen l).timer = s.timer := rfl
@[simp] theorem State.driveChanOpen_done (s : State) (l : Bool) : (s.driveChanOpen l).done = s.done := rfl
@[simp] theorem State.driveChanOpen_result (s : State) (l : Bool) : (s.driveChanOpen l).result = s.result := rfl
@[simp] theorem State.driveChanOpen_cause (s : State) (l : Bool) : (s.driveChanOpen l).cause = s.cause := rfl
@[simp] theorem State.driveChanOpen_errcode (s : State) (l : Bool) : (s.driveChanOpen l).errcode = s.errcode := rfl
@[simp] theorem State.driveChanOpen_somOk (s : State) (l : Bool) : (s.driveChanOpen l).somOk = s.somOk := rfl
@[simp] theorem State.driveChanOpen_lenOk (s : State) (l : Bool) : (s.driveChanOpen l).lenOk = s.lenOk := rfl
@[simp] theorem State.driveChanOpen_ckOk (s : State) (l : Bool) : (s.driveChanOpen l).ckOk = s.ckOk := rfl
@[simp] theorem State.driveChanOpen_ckCalc (s : State) (l : Bool) : (s.driveChanOpen l).ckCalc = s.ckCalc := rfl
@[simp] theorem State.driveChanOpen_ckAcc (s : State) (l : Bool) : (s.driveChanOpen l).ckAcc = s.ckAcc := rfl
@[simp] theorem State.driveChanOpen_txlen (s : State) (l : Bool) : (s.driveChanOpen l).txlen = s.txlen := rfl
@[simp] theorem State.driveChanOpen_rxlen (s : State) (l : Bool) : (s.driveChanOpen l).rxlen = s.rxlen := rfl
@[simp] theorem State.driveChanOpen_txbuf (s : State) (l : Bool) : (s.driveChanOpen l).txbuf = s.txbuf := rfl
@[simp] theorem State.driveChanOpen_rxbuf (s : State) (l : Bool) : (s.driveChanOpen l).rxbuf = s.rxbuf := rfl
@[simp] theorem State.driveChanOpen_chanOpen (s : State) (l : Bool) : (s.driveChanOpen l).chanOpen = l := rfl
@[simp] theorem State.driveChanOpen_trace (s : State) (l : Bool) : (s.driveChanOpen l).trace = s.trace := rfl
@[simp] theorem State.driveChanOpen_wire (s : State) (l : Bool) : (s.driveChanOpen l).wire = s.wire := rfl
@[simp] theorem State.driveChanOpen_session (s : State) (l : Bool) : (s.driveChanOpen l).session = if l && !s.chanOpen then ⟨none, none⟩ else s.session := rfl
@[simp] theorem State.driveChanOpen_ret (s : State) (l : Bool) : (s.driveChanOpen l).ret = s.ret := rfl
@[simp] theorem State.driveChanOpen_schedule (s : State) (l : Bool) : (s.driveChanOpen l).schedule = s.schedule := rfl

/-! ### `resetBlock` -/

@[simp] theorem State.resetBlock_seq (s : State) : s.resetBlock.seq = State.reset.seq := rfl
@[simp] theorem State.resetBlock_txidx (s : State) : s.resetBlock.txidx = State.reset.txidx := rfl
@[simp] theorem State.resetBlock_rxcnt (s : State) : s.resetBlock.rxcnt = State.reset.rxcnt := rfl
@[simp] theorem State.resetBlock_attempt (s : State) : s.resetBlock.attempt = State.reset.attempt := rfl
@[simp] theorem State.resetBlock_timer (s : State) : s.resetBlock.timer = State.reset.timer := rfl
@[simp] theorem State.resetBlock_done (s : State) : s.resetBlock.done = State.reset.done := rfl
@[simp] theorem State.resetBlock_result (s : State) : s.resetBlock.result = State.reset.result := rfl
@[simp] theorem State.resetBlock_cause (s : State) : s.resetBlock.cause = State.reset.cause := rfl
@[simp] theorem State.resetBlock_errcode (s : State) : s.resetBlock.errcode = State.reset.errcode := rfl
@[simp] theorem State.resetBlock_somOk (s : State) : s.resetBlock.somOk = State.reset.somOk := rfl
@[simp] theorem State.resetBlock_lenOk (s : State) : s.resetBlock.lenOk = State.reset.lenOk := rfl
@[simp] theorem State.resetBlock_ckOk (s : State) : s.resetBlock.ckOk = State.reset.ckOk := rfl
@[simp] theorem State.resetBlock_ckCalc (s : State) : s.resetBlock.ckCalc = State.reset.ckCalc := rfl
@[simp] theorem State.resetBlock_ckAcc (s : State) : s.resetBlock.ckAcc = State.reset.ckAcc := rfl
@[simp] theorem State.resetBlock_txlen (s : State) : s.resetBlock.txlen = State.reset.txlen := rfl
@[simp] theorem State.resetBlock_rxlen (s : State) : s.resetBlock.rxlen = State.reset.rxlen := rfl
@[simp] theorem State.resetBlock_txbuf (s : State) : s.resetBlock.txbuf = State.reset.txbuf := rfl
@[simp] theorem State.resetBlock_rxbuf (s : State) : s.resetBlock.rxbuf = State.reset.rxbuf := rfl
@[simp] theorem State.resetBlock_chanOpen (s : State) : s.resetBlock.chanOpen = s.chanOpen := rfl
@[simp] theorem State.resetBlock_trace (s : State) : s.resetBlock.trace = State.reset.trace := rfl
@[simp] theorem State.resetBlock_wire (s : State) : s.resetBlock.wire = s.wire := rfl
@[simp] theorem State.resetBlock_session (s : State) : s.resetBlock.session = s.session := rfl
@[simp] theorem State.resetBlock_ret (s : State) : s.resetBlock.ret = State.reset.ret := rfl
@[simp] theorem State.resetBlock_schedule (s : State) : s.resetBlock.schedule = s.schedule := rfl

/-! ### `taking` -/

@[simp] theorem State.taking_seq (s : State) (r : List Event) : (s.taking r).seq = s.seq := rfl
@[simp] theorem State.taking_txidx (s : State) (r : List Event) : (s.taking r).txidx = s.txidx := rfl
@[simp] theorem State.taking_rxcnt (s : State) (r : List Event) : (s.taking r).rxcnt = s.rxcnt := rfl
@[simp] theorem State.taking_attempt (s : State) (r : List Event) : (s.taking r).attempt = s.attempt := rfl
@[simp] theorem State.taking_timer (s : State) (r : List Event) : (s.taking r).timer = s.timer := rfl
@[simp] theorem State.taking_done (s : State) (r : List Event) : (s.taking r).done = s.done := rfl
@[simp] theorem State.taking_result (s : State) (r : List Event) : (s.taking r).result = s.result := rfl
@[simp] theorem State.taking_cause (s : State) (r : List Event) : (s.taking r).cause = s.cause := rfl
@[simp] theorem State.taking_errcode (s : State) (r : List Event) : (s.taking r).errcode = s.errcode := rfl
@[simp] theorem State.taking_somOk (s : State) (r : List Event) : (s.taking r).somOk = s.somOk := rfl
@[simp] theorem State.taking_lenOk (s : State) (r : List Event) : (s.taking r).lenOk = s.lenOk := rfl
@[simp] theorem State.taking_ckOk (s : State) (r : List Event) : (s.taking r).ckOk = s.ckOk := rfl
@[simp] theorem State.taking_ckCalc (s : State) (r : List Event) : (s.taking r).ckCalc = s.ckCalc := rfl
@[simp] theorem State.taking_ckAcc (s : State) (r : List Event) : (s.taking r).ckAcc = s.ckAcc := rfl
@[simp] theorem State.taking_txlen (s : State) (r : List Event) : (s.taking r).txlen = s.txlen := rfl
@[simp] theorem State.taking_rxlen (s : State) (r : List Event) : (s.taking r).rxlen = s.rxlen := rfl
@[simp] theorem State.taking_txbuf (s : State) (r : List Event) : (s.taking r).txbuf = s.txbuf := rfl
@[simp] theorem State.taking_rxbuf (s : State) (r : List Event) : (s.taking r).rxbuf = s.rxbuf := rfl
@[simp] theorem State.taking_chanOpen (s : State) (r : List Event) : (s.taking r).chanOpen = s.chanOpen := rfl
@[simp] theorem State.taking_trace (s : State) (r : List Event) : (s.taking r).trace = s.trace := rfl
@[simp] theorem State.taking_wire (s : State) (r : List Event) : (s.taking r).wire = s.wire := rfl
@[simp] theorem State.taking_session (s : State) (r : List Event) : (s.taking r).session = s.session := rfl
@[simp] theorem State.taking_ret (s : State) (r : List Event) : (s.taking r).ret = s.ret := rfl
@[simp] theorem State.taking_schedule (s : State) (r : List Event) : (s.taking r).schedule = r := rfl

/-! ### `attemptFailed`: the fields both of its ends share -/

@[simp] theorem State.attemptFailed_txidx (s : State) (c : Cause) (b : List Byte) : (s.attemptFailed c b).txidx = s.txidx := by
  unfold State.attemptFailed; dsimp only; split <;> rfl
@[simp] theorem State.attemptFailed_rxcnt (s : State) (c : Cause) (b : List Byte) : (s.attemptFailed c b).rxcnt = s.rxcnt := by
  unfold State.attemptFailed; dsimp only; split <;> rfl
@[simp] theorem State.attemptFailed_attempt (s : State) (c : Cause) (b : List Byte) : (s.attemptFailed c b).attempt = s.attempt := by
  unfold State.attemptFailed; dsimp only; split <;> rfl
@[simp] theorem State.attemptFailed_errcode (s : State) (c : Cause) (b : List Byte) : (s.attemptFailed c b).errcode = s.errcode := by
  unfold State.attemptFailed; dsimp only; split <;> rfl
@[simp] theorem State.attemptFailed_somOk (s : State) (c : Cause) (b : List Byte) : (s.attemptFailed c b).somOk = s.somOk := by
  unfold State.attemptFailed; dsimp only; split <;> rfl
@[simp] theorem State.attemptFailed_lenOk (s : State) (c : Cause) (b : List Byte) : (s.attemptFailed c b).lenOk = s.lenOk := by
  unfold State.attemptFailed; dsimp only; split <;> rfl
@[simp] theorem State.attemptFailed_ckOk (s : State) (c : Cause) (b : List Byte) : (s.attemptFailed c b).ckOk = s.ckOk := by
  unfold State.attemptFailed; dsimp only; split <;> rfl
@[simp] theorem State.attemptFailed_ckCalc (s : State) (c : Cause) (b : List Byte) : (s.attemptFailed c b).ckCalc = s.ckCalc := by
  unfold State.attemptFailed; dsimp only; split <;> rfl
@[simp] theorem State.attemptFailed_ckAcc (s : State) (c : Cause) (b : List Byte) : (s.attemptFailed c b).ckAcc = s.ckAcc := by
  unfold State.attemptFailed; dsimp only; split <;> rfl
@[simp] theorem State.attemptFailed_txlen (s : State) (c : Cause) (b : List Byte) : (s.attemptFailed c b).txlen = s.txlen := by
  unfold State.attemptFailed; dsimp only; split <;> rfl
@[simp] theorem State.attemptFailed_rxlen (s : State) (c : Cause) (b : List Byte) : (s.attemptFailed c b).rxlen = s.rxlen := by
  unfold State.attemptFailed; dsimp only; split <;> rfl
@[simp] theorem State.attemptFailed_txbuf (s : State) (c : Cause) (b : List Byte) : (s.attemptFailed c b).txbuf = s.txbuf := by
  unfold State.attemptFailed; dsimp only; split <;> rfl
@[simp] theorem State.attemptFailed_rxbuf (s : State) (c : Cause) (b : List Byte) : (s.attemptFailed c b).rxbuf = s.rxbuf := by
  unfold State.attemptFailed; dsimp only; split <;> rfl
@[simp] theorem State.attemptFailed_chanOpen (s : State) (c : Cause) (b : List Byte) : (s.attemptFailed c b).chanOpen = s.chanOpen := by
  unfold State.attemptFailed; dsimp only; split <;> rfl
@[simp] theorem State.attemptFailed_wire (s : State) (c : Cause) (b : List Byte) : (s.attemptFailed c b).wire = s.wire := by
  unfold State.attemptFailed; dsimp only; split <;> rfl
@[simp] theorem State.attemptFailed_session (s : State) (c : Cause) (b : List Byte) : (s.attemptFailed c b).session = s.session := by
  unfold State.attemptFailed; dsimp only; split <;> rfl
@[simp] theorem State.attemptFailed_ret (s : State) (c : Cause) (b : List Byte) : (s.attemptFailed c b).ret = s.ret := by
  unfold State.attemptFailed; dsimp only; split <;> rfl
@[simp] theorem State.attemptFailed_schedule (s : State) (c : Cause) (b : List Byte) : (s.attemptFailed c b).schedule = s.schedule := by
  unfold State.attemptFailed; dsimp only; split <;> rfl
@[simp] theorem State.attemptFailed_cause (s : State) (c : Cause) (b : List Byte) : (s.attemptFailed c b).cause = c := by
  unfold State.attemptFailed; dsimp only; split <;> rfl
@[simp] theorem State.attemptFailed_trace (s : State) (c : Cause) (b : List Byte) : (s.attemptFailed c b).trace = s.trace ++ [.rx s.attempt.toNat b] := by
  unfold State.attemptFailed; dsimp only; split <;> rfl
@[simp] theorem State.attemptFailed_seq (s : State) (c : Cause) (b : List Byte) :
    (s.attemptFailed c b).seq = if s.attempt.toNat < Config.maxAttempts then .delay else .idle := by
  unfold State.attemptFailed; dsimp only; split <;> rfl
@[simp] theorem State.attemptFailed_timer (s : State) (c : Cause) (b : List Byte) :
    (s.attemptFailed c b).timer = if s.attempt.toNat < Config.maxAttempts then Config.tDly else s.timer := by
  unfold State.attemptFailed; dsimp only; split <;> rfl
@[simp] theorem State.attemptFailed_result (s : State) (c : Cause) (b : List Byte) :
    (s.attemptFailed c b).result = if s.attempt.toNat < Config.maxAttempts then s.result else .failTransport := by
  unfold State.attemptFailed; dsimp only; split <;> rfl
@[simp] theorem State.attemptFailed_done (s : State) (c : Cause) (b : List Byte) :
    (s.attemptFailed c b).done = if s.attempt.toNat < Config.maxAttempts then s.done else true := by
  unfold State.attemptFailed; dsimp only; split <;> rfl

end Sys2Proof.Machine
end

