-- ==== Sys2Proof/Laws/Ops.lean ====
section
/-! SUPPORT. For each shared operation, once, everything it can answer. -/

namespace Sys2Proof.Machine

/-- Two operations in sequence answer a next state exactly when the first does and the second does from there. -/
theorem andThen_eq_next {a : Answer} {k : State → Answer} {t : State} :
    andThen a k = .next t ↔ ∃ s, a = .next s ∧ k s = .next t := by
  cases a <;> simp [andThen]

@[simp] theorem andThen_next (s : State) (k : State → Answer) : andThen (.next s) k = k s := rfl

/-- `begin_attempt` answers exactly when every command cell holds a value. -/
theorem beginAttempt_eq_next {s t : State} :
    beginAttempt s = .next t ↔ ∃ bytes, s.txbuf.slice 0 s.txlen.toNat = some bytes ∧ t = s.begun bytes := by
  unfold beginAttempt
  cases s.txbuf.slice 0 s.txlen.toNat <;> simp [eq_comm (a := t)]

/-- `fail_attempt` answers exactly when every counted response cell holds a value. -/
theorem failAttempt_eq_next {c : Cause} {s t : State} :
    failAttempt c s = .next t ↔
      ∃ bytes, s.rxbuf.slice 0 s.rxcnt.toNat = some bytes ∧ t = s.attemptFailed c bytes := by
  unfold failAttempt
  cases s.rxbuf.slice 0 s.rxcnt.toNat <;> simp [eq_comm (a := t)]

/-- Attempts 1 and 2 fail into the delay. -/
theorem State.attemptFailed_retry {s : State} (c : Cause) (bytes : List Byte) (h : s.attempt.toNat < 3) :
    s.attemptFailed c bytes = { s with
      cause := c, trace := s.trace ++ [.rx s.attempt.toNat bytes], seq := .delay, timer := Config.tDly } :=
  if_pos h

/-- Attempt 3 fails the transaction. -/
theorem State.attemptFailed_last {s : State} (c : Cause) (bytes : List Byte) (h : ¬s.attempt.toNat < 3) :
    s.attemptFailed c bytes = { s with
      cause := c, trace := s.trace ++ [.rx s.attempt.toNat bytes], result := .failTransport, done := true,
      seq := .idle } :=
  if_neg h

/-- The cells of a buffer are 0 to 257 (R62). -/
theorem inBuffer_eq_true (i : Nat) : inBuffer i = true ↔ i < 258 := by
  unfold inBuffer; rw [decide_eq_true_eq]; rfl

/-- The host sees exactly the counted cells. -/
theorem hostRx_eq_some {s : State} {i : Nat} {b : Byte} :
    hostRx s i = some b ↔ i < s.rxcnt.toNat ∧ s.rxbuf.read i = some b := by
  unfold hostRx; split <;> simp_all

/-- The host sees a whole frame exactly when all its bytes are counted. -/
theorem hostRxFrame_eq_some {s : State} {n : Nat} {f : List Byte} :
    hostRxFrame s n = some f ↔ n ≤ s.rxcnt.toNat ∧ s.rxbuf.slice 0 n = some f := by
  unfold hostRxFrame; split <;> simp_all

/-- Control registers 0 to 10 exist, no other (R40). -/
theorem csrValue_isSome (s : State) (n : Nat) : (csrValue s n).isSome = decide (n ≤ 10) := by
  by_cases h : n ≤ 10
  · interval_cases n <;> rfl
  · obtain ⟨k, rfl⟩ : ∃ k, n = k + 11 := ⟨n - 11, by omega⟩
    rw [decide_eq_false h]; rfl

@[simp] theorem busy_eq_true (s : State) : busy s = true ↔ s.seq ≠ .idle := by simp [busy]

theorem busy_eq_false (s : State) : busy s = false ↔ s.seq = .idle := by simp [busy]

/-- The lengths START accepts, as numbers. -/
theorem legalLengths_eq_true (s : State) : legalLengths s = true ↔
    1 ≤ s.txlen.toNat ∧ s.txlen.toNat ≤ 258 ∧ 2 ≤ s.rxlen.toNat ∧ s.rxlen.toNat ≤ 258 := by simp [legalLengths]

/-- A response is read exactly when the transaction is over and succeeded; otherwise only `ret` changes. -/
theorem readResponse_eq_next {s t : State} {k : Answer} :
    readResponse s k = .next t ↔
      (s.seq = .idle ∧ s.done = true ∧ s.result = .ok ∧ k = .next t) ∨
        (s.seq ≠ .idle ∧ t = s.refusing .busy) ∨ (s.seq = .idle ∧ s.done = false ∧ t = s.refusing .notDone) ∨
          (s.seq = .idle ∧ s.done = true ∧ s.result ≠ .ok ∧ t = s.returning .failure) := by
  unfold readResponse
  by_cases h1 : s.seq = .idle <;> by_cases h2 : s.done = true <;> by_cases h3 : s.result = .ok <;>
    simp [busy, h1, h2, h3, eq_comm (a := t)]

end Sys2Proof.Machine
end

