-- ==== Sys2Proof/Laws/Exec.lean ====
section
/-! SUPPORT. For each meaning, once, every next state it can answer. -/

namespace Sys2Proof.Machine

/-! ### Host operations -/

theorem execEncode_eq_next {src dst cmd : Byte} {p : List Byte} {s t : State} :
    execEncode src dst cmd p s = .next t ↔
      (s.seq ≠ .idle ∧ t = s.refusing .busy) ∨
        (s.seq = .idle ∧ 252 < p.length ∧ t = s.refusing .payloadTooLong) ∨
          (s.seq = .idle ∧ p.length ≤ 252 ∧
            t = (s.storeFrame (frameTemplate src dst cmd p)).returning .performed) := by
  unfold execEncode
  by_cases h1 : s.seq = .idle <;> by_cases h2 : 252 < p.length
  all_goals simp [busy, h1, h2, eq_comm (a := t)]
  all_goals omega

theorem execTxwr_eq_next {i : Nat} {v : Byte} {s t : State} :
    execTxwr i v s = .next t ↔
      (s.seq ≠ .idle ∧ t = s.refusing .busy) ∨ (s.seq = .idle ∧ 258 ≤ i ∧ t = s.refusing .badIndex) ∨
        (s.seq = .idle ∧ i < 258 ∧ t = (s.storeTx i v).returning .performed) := by
  unfold execTxwr
  by_cases h1 : s.seq = .idle <;> by_cases h2 : i < 258
  all_goals simp [busy, inBuffer, Config.bufCap, h1, h2, eq_comm (a := t)]
  all_goals omega

/-- TXRD always answers, and only `ret` changes. -/
theorem execTxrd_next (i : Nat) (s : State) : ∃ r, execTxrd i s = .next (s.returning r) := by
  unfold execTxrd
  cases inBuffer i
  · exact ⟨.refused .badIndex, rfl⟩
  · cases h : s.txbuf.read i
    · exact ⟨.refused .unwritten, rfl⟩
    · exact ⟨.byte _, rfl⟩

theorem execSettxlen_eq_next {n : Word16} {s t : State} :
    execSettxlen n s = .next t ↔
      (s.seq ≠ .idle ∧ t = s.refusing .busy) ∨
        (s.seq = .idle ∧ t = (s.putTxlen (lengthOperand n)).returning .performed) := by
  unfold execSettxlen State.writeTxlen
  by_cases h1 : s.seq = .idle <;> simp [busy, h1, eq_comm (a := t)]

theorem execSetrxlen_eq_next {n : Word16} {s t : State} :
    execSetrxlen n s = .next t ↔
      (s.seq ≠ .idle ∧ t = s.refusing .busy) ∨
        (s.seq = .idle ∧ t = (s.putRxlen (lengthOperand n)).returning .performed) := by
  unfold execSetrxlen State.writeRxlen
  by_cases h1 : s.seq = .idle <;> simp [busy, h1, eq_comm (a := t)]

/-- Everything a register write by number can do: it is SETTXLEN, it is SETRXLEN, or it only marks a refusal. -/
theorem writeRegister_cases (s : State) (n v : Word16) :
    (n = 2#16 ∧ execSettxlen v s = .next (s.writeRegister n v)) ∨
      (n = 3#16 ∧ execSetrxlen v s = .next (s.writeRegister n v)) ∨
        ∃ r, s.writeRegister n v = s.refusing r := by
  unfold State.writeRegister
  split
  · next h => exact .inl ⟨BitVec.eq_of_toNat_eq h, rfl⟩
  · next h => exact .inr (.inl ⟨BitVec.eq_of_toNat_eq h, rfl⟩)
  · exact .inr (.inr ⟨_, rfl⟩)

/-- A register write by number changes the lengths and `ret` at most, and no length while a transaction is in
flight. -/
theorem writeRegister_frame (s : State) (n v : Word16) :
    ∃ x y r, s.writeRegister n v = { s with txlen := x, rxlen := y, ret := r } ∧
      (s.seq ≠ .idle → x = s.txlen ∧ y = s.rxlen) := by
  rcases writeRegister_cases s n v with ⟨_, h⟩ | ⟨_, h⟩ | ⟨r, h⟩
  · rcases execSettxlen_eq_next.1 h with ⟨_, e⟩ | ⟨hi, e⟩
    · exact ⟨s.txlen, s.rxlen, _, e, fun _ => ⟨rfl, rfl⟩⟩
    · exact ⟨_, s.rxlen, _, e, fun hn => absurd hi hn⟩
  · rcases execSetrxlen_eq_next.1 h with ⟨_, e⟩ | ⟨hi, e⟩
    · exact ⟨s.txlen, s.rxlen, _, e, fun _ => ⟨rfl, rfl⟩⟩
    · exact ⟨s.txlen, _, _, e, fun hn => absurd hi hn⟩
  · exact ⟨s.txlen, s.rxlen, _, h, fun _ => ⟨rfl, rfl⟩⟩

/-- CSRRD always answers, and only `ret` changes. -/
theorem execCsrrd_next (n : Word16) (s : State) : ∃ r, execCsrrd n s = .next (s.returning r) := by
  unfold execCsrrd
  cases h : csrValue s n.toNat
  · exact ⟨.refused .badRegister, rfl⟩
  · exact ⟨.word _, rfl⟩

/-- DECODE always answers, and only `ret` changes. -/
theorem execDecode_next (s : State) : ∃ r, execDecode s = .next (s.returning r) := by
  unfold execDecode
  split
  · exact ⟨.refused .busy, rfl⟩
  · split
    · exact ⟨.refused .notDone, rfl⟩
    · split
      · exact ⟨.refused .notOk, rfl⟩
      · split
        · exact ⟨.refused .badLength, rfl⟩
        · split
          · exact ⟨.fields _, rfl⟩
          · exact ⟨.refused .unwritten, rfl⟩

/-- RXRD always answers, and only `ret` changes. -/
theorem execRxrd_next (i : Nat) (s : State) : ∃ r, execRxrd i s = .next (s.returning r) := by
  unfold execRxrd
  split
  · exact ⟨.refused .busy, rfl⟩
  · split
    · exact ⟨.refused .notDone, rfl⟩
    · split
      · exact ⟨.byte _, rfl⟩
      · exact ⟨.refused .badIndex, rfl⟩

/-- CKVERIFY always answers, and only `ret` changes. -/
theorem execCkverify_next (n : Nat) (s : State) : ∃ r, execCkverify n s = .next (s.returning r) := by
  unfold execCkverify
  split
  · exact ⟨.refused .busy, rfl⟩
  · split
    · exact ⟨.refused .notDone, rfl⟩
    · split
      · exact ⟨.refused .badIndex, rfl⟩
      · split
        · exact ⟨.flag _, rfl⟩
        · exact ⟨.refused .badIndex, rfl⟩

theorem execCkfill_eq_next {s t : State} :
    execCkfill s = .next t ↔
      (s.seq ≠ .idle ∧ t = s.refusing .busy) ∨
        (s.seq = .idle ∧ (s.txlen.toNat < 2 ∨ 258 < s.txlen.toNat) ∧ t = s.refusing .badLength) ∨
          ∃ body, s.seq = .idle ∧ 2 ≤ s.txlen.toNat ∧ s.txlen.toNat ≤ 258 ∧
            s.txbuf.slice 1 (s.txlen.toNat - 2) = some body ∧
              t = (s.storeTx (s.txlen.toNat - 1) (bodyCksum body)).returning .performed := by
  unfold execCkfill
  by_cases h1 : s.seq = .idle
  · by_cases h2 : s.txlen.toNat < 2 ∨ 258 < s.txlen.toNat
    · have h3 : ¬(2 ≤ s.txlen.toNat ∧ s.txlen.toNat ≤ 258) := by omega
      simp only [busy, h1, ne_eq, not_true_eq_false, decide_false, Bool.false_eq_true, if_false, h2, if_true,
        Host.Outcome.next.injEq, false_and, false_or, true_and, eq_comm (a := t)]
      constructor
      · exact fun h => .inl h
      · rintro (h | ⟨_, ha, hb, _⟩)
        · exact h
        · exact absurd ⟨ha, hb⟩ h3
    · have h3 : 2 ≤ s.txlen.toNat ∧ s.txlen.toNat ≤ 258 := by omega
      rw [if_neg (by simp [busy, h1]), if_neg h2]
      cases hs : s.txbuf.slice 1 (s.txlen.toNat - 2) <;>
        simp only [h1, h2, h3.1, h3.2, ne_eq, not_true_eq_false, false_and, true_and, false_or, reduceCtorEq,
          exists_const, Option.some.injEq, exists_eq_left', Host.Outcome.next.injEq, eq_comm (a := t)]
  · simp [busy, h1, eq_comm (a := t)]

theorem execStart_eq_next {s t : State} :
    execStart s = .next t ↔
      (s.seq ≠ .idle ∧ t = s.refusing .busy) ∨
        (s.seq = .idle ∧ s.chanOpen = false ∧ t = (s.startFailed .notOpen).returning .performed) ∨
          (s.seq = .idle ∧ s.chanOpen = true ∧ legalLengths s = false ∧
            t = (s.startFailed .badParam).returning .performed) ∨
            ∃ bytes, s.seq = .idle ∧ s.chanOpen = true ∧ legalLengths s = true ∧
              s.txbuf.slice 0 s.txlen.toNat = some bytes ∧ t = (s.accepted.begun bytes).returning .performed := by
  unfold execStart
  by_cases h1 : s.seq = .idle <;> cases h2 : s.chanOpen <;> cases h3 : legalLengths s <;>
    cases h4 : s.txbuf.slice 0 s.txlen.toNat <;> simp [busy, h1, eq_comm (a := t)]

/-! ### Sequencer steps -/

theorem execTxAccept_eq_next {s t : State} :
    execTxAccept s = .next t ↔ ∃ b, s.seq = .write ∧ s.txidx.toNat + 1 < s.txlen.toNat ∧
      s.txbuf.read s.txidx.toNat = some b ∧ t = s.sent b := by
  unfold execTxAccept
  by_cases h : s.seq = .write ∧ s.txidx.toNat + 1 < s.txlen.toNat
  · cases h2 : s.txbuf.read s.txidx.toNat <;> simp [txData, txValid, h.1, h.2, h2, eq_comm (a := t)]
  · simp only [h, if_false, reduceCtorEq, false_iff]; rintro ⟨b, h1, h2, _⟩; exact h ⟨h1, h2⟩

theorem execTxAcceptLast_eq_next {s t : State} :
    execTxAcceptLast s = .next t ↔ ∃ b, s.seq = .write ∧ s.txidx.toNat + 1 = s.txlen.toNat ∧
      s.txbuf.read s.txidx.toNat = some b ∧ t = (s.sent b).enterRead := by
  unfold execTxAcceptLast
  by_cases h : s.seq = .write ∧ s.txidx.toNat + 1 = s.txlen.toNat
  · cases h2 : s.txbuf.read s.txidx.toNat <;> simp [txData, txValid, h.1, h.2, h2, eq_comm (a := t)]
  · simp only [h, if_false, reduceCtorEq, false_iff]; rintro ⟨b, h1, h2, _⟩; exact h ⟨h1, h2⟩

theorem execTxError_eq_next {e : ChanErr} {s t : State} :
    execTxError e s = .next t ↔ ∃ bytes, s.seq = .write ∧ s.rxbuf.slice 0 s.rxcnt.toNat = some bytes ∧
      t = (s.putErrcode e).attemptFailed .writeErr bytes := by
  unfold execTxError
  by_cases h : s.seq = .write <;> simp [h, failAttempt_eq_next]

theorem execRxByte_eq_next {b : Byte} {s t : State} :
    execRxByte b s = .next t ↔ s.seq = .read ∧ s.rxcnt.toNat < 258 ∧ t = s.received b := by
  unfold execRxByte
  by_cases h : s.seq = .read <;> by_cases h2 : s.rxcnt.toNat < 258 <;>
    simp [inBuffer, Config.bufCap, h, h2, eq_comm (a := t)]

theorem execRxError_eq_next {e : ChanErr} {s t : State} :
    execRxError e s = .next t ↔ ∃ bytes, s.seq = .read ∧ s.rxbuf.slice 0 s.rxcnt.toNat = some bytes ∧
      t = (s.putErrcode e).attemptFailed .readErr bytes := by
  unfold execRxError
  by_cases h : s.seq = .read <;> simp [h, failAttempt_eq_next]

theorem execTickRead_eq_next {s t : State} :
    execTickRead s = .next t ↔
      (s.seq = .read ∧ 1 < s.timer.toNat ∧ t = s.putTimer (s.timer - 1#16)) ∨
        ∃ bytes, s.seq = .read ∧ s.timer.toNat ≤ 1 ∧ s.rxbuf.slice 0 s.rxcnt.toNat = some bytes ∧
          t = (s.putTimer 0#16).attemptFailed .timeout bytes := by
  unfold execTickRead
  by_cases h : s.seq = .read <;> by_cases h2 : 1 < s.timer.toNat
  · simp [h, h2, eq_comm (a := t), Nat.not_le.2 h2]
  · simp [h, h2, failAttempt_eq_next, Nat.not_lt.1 h2]
  · simp [h]
  · simp [h]

theorem execTickDelay_eq_next {s t : State} :
    execTickDelay s = .next t ↔
      (s.seq = .delay ∧ 1 < s.timer.toNat ∧ t = s.putTimer (s.timer - 1#16)) ∨
        ∃ bytes, s.seq = .delay ∧ s.timer.toNat ≤ 1 ∧ s.txbuf.slice 0 s.txlen.toNat = some bytes ∧
          t = (s.putTimer 0#16).begun bytes := by
  unfold execTickDelay
  by_cases h : s.seq = .delay <;> by_cases h2 : 1 < s.timer.toNat
  · simp [h, h2, eq_comm (a := t), Nat.not_le.2 h2]
  · simp [h, h2, beginAttempt_eq_next, Nat.not_lt.1 h2]
  · simp [h]
  · simp [h]

theorem execCheck_eq_next {s t : State} :
    execCheck s = .next t ↔ ∃ f, s.seq = .check ∧ s.rxcnt = s.rxlen ∧
      s.rxbuf.slice 0 s.rxlen.toNat = some f ∧ t = (s.checked f).complete (checkVerdict f) := by
  unfold execCheck
  by_cases h : s.seq = .check ∧ s.rxcnt = s.rxlen
  · cases s.rxbuf.slice 0 s.rxlen.toNat <;> simp [h.1, h.2, eq_comm (a := t)]
  · simp only [h, if_false, reduceCtorEq, false_iff]; rintro ⟨b, h1, h2, _⟩; exact h ⟨h1, h2⟩

theorem execTickIdle_eq_next {s t : State} :
    execTickIdle s = .next t ↔ s.seq ≠ .read ∧ s.seq ≠ .delay ∧ t = s := by
  unfold execTickIdle
  cases s.seq <;> simp [eq_comm (a := t)]

/-! ### Session operations -/

/-- Before its START, a session request leaves its frame in `TXBUF`, its length in `TXLEN` and the expected
response length in `RXLEN`, and nothing else but `ret`. -/
theorem issueRequest_idle (cmd : Byte) (n : Nat) (s : State) (h : s.seq = .idle) :
    ∃ m : Memory, (∀ i, m.read i = if i < 6 then (requestFrame cmd)[i]? else s.txbuf.read i) ∧
      (s.txbuf.wf = true → m.wf = true) ∧
      issueRequest cmd n s =
        execStart { s with txbuf := m, txlen := 6#9, rxlen := BitVec.ofNat 9 n, ret := .performed } := by
  set f := frameTemplate Config.devPc Config.devDelta cmd [] with hf
  have hfl : f.length = 6 := by rw [hf]; simp
  set m1 := s.txbuf.writeList 0 f with hm1
  have hread1 : ∀ i, m1.read i = if i < 6 then f[i]? else s.txbuf.read i := by
    intro i; rw [hm1, Memory.read_writeList, hfl]; simp
  have hslice : m1.slice 1 4 = some [3#8, Config.devPc, Config.devDelta, cmd] := by
    refine (Memory.slice_eq_some _ _ _ _).2 ⟨rfl, fun k hk => ?_⟩
    rw [hread1, if_pos (by omega), hf]
    interval_cases k <;> rfl
  refine ⟨m1.write 5 (bodyCksum [3#8, Config.devPc, Config.devDelta, cmd]), ?_, ?_, ?_⟩
  · intro i
    rw [Memory.read_write, hread1]
    by_cases h5 : i = 5
    · subst h5; simp [requestFrame, completeFrame]
    · by_cases hlt : i < 6
      · rw [if_neg h5, if_pos hlt, if_pos hlt, hf]
        interval_cases i <;> first | rfl | omega
      · rw [if_neg h5, if_neg hlt, if_neg hlt]
  · intro hw
    exact Memory.wf_write _ _ _ (Memory.wf_writeList f _ 0 hw (by rw [hfl]; decide)) (by decide)
  · have e1 : execEncode Config.devPc Config.devDelta cmd [] s =
        .next { s with txbuf := m1, txlen := 6#9, ret := .performed } :=
      execEncode_eq_next.2 (.inr (.inr ⟨h, by simp, by
        simp only [State.returning, State.storeFrame, ← hf, ← hm1, hfl]⟩))
    have e2 : execCkfill { s with txbuf := m1, txlen := 6#9, ret := .performed } =
        .next { s with
          txbuf := m1.write 5 (bodyCksum [3#8, Config.devPc, Config.devDelta, cmd]), txlen := 6#9,
          ret := .performed } :=
      execCkfill_eq_next.2 (.inr (.inr ⟨_, h, show 2 ≤ (6#9).toNat by decide, show (6#9).toNat ≤ 258 by decide, hslice, rfl⟩))
    have e3 : ∀ u : State, u.seq = .idle →
        execSetrxlen (BitVec.ofNat 16 n) u = .next { u with rxlen := BitVec.ofNat 9 n, ret := .performed } := by
      intro u hu
      refine execSetrxlen_eq_next.2 (.inr ⟨hu, ?_⟩)
      have : lengthOperand (BitVec.ofNat 16 n) = BitVec.ofNat 9 n := by
        apply BitVec.eq_of_toNat_eq
        simp only [lengthOperand, BitVec.toNat_setWidth, BitVec.toNat_ofNat]; omega
      rw [this]; rfl
    unfold issueRequest
    rw [e1, andThen_next, e2, andThen_next, e3 _ (by exact h), andThen_next]

/-- While a transaction is in flight a session request changes nothing. -/
theorem issueRequest_busy (cmd : Byte) (n : Nat) (s : State) (h : s.seq ≠ .idle) :
    issueRequest cmd n s = .next (s.refusing .busy) := by
  have e : ∀ u : State, u.seq ≠ .idle → busy u = true := fun u hu => (busy_eq_true u).2 hu
  unfold issueRequest
  rw [show execEncode Config.devPc Config.devDelta cmd [] s = .next (s.refusing .busy) from
    execEncode_eq_next.2 (.inl ⟨h, rfl⟩), andThen_next,
    show execCkfill (s.refusing .busy) = .next (s.refusing .busy) from execCkfill_eq_next.2 (.inl ⟨h, rfl⟩),
    andThen_next,
    show execSetrxlen (BitVec.ofNat 16 n) (s.refusing .busy) = .next (s.refusing .busy) from
      execSetrxlen_eq_next.2 (.inl ⟨h, rfl⟩), andThen_next]
  exact execStart_eq_next.2 (.inl ⟨h, rfl⟩)

theorem readVersionInfo_eq_some {s : State} {v : VersionInfo} :
    readVersionInfo s = some v ↔ ∃ hi lo, 8 < s.rxcnt.toNat ∧ s.rxbuf.read 5 = some v.major ∧
      s.rxbuf.read 6 = some v.minor ∧ s.rxbuf.read 7 = some hi ∧ s.rxbuf.read 8 = some lo ∧ v.build = be16 hi lo := by
  unfold readVersionInfo
  simp only [Config.verMajorOff, Config.verMinorOff, Config.verBuildHiOff, Config.verBuildLoOff]
  constructor
  · intro h
    split at h
    · next a b c d h5 h6 h7 h8 =>
      cases h
      exact ⟨c, d, (hostRx_eq_some.1 h8).1, (hostRx_eq_some.1 h5).2, (hostRx_eq_some.1 h6).2,
        (hostRx_eq_some.1 h7).2, (hostRx_eq_some.1 h8).2, rfl⟩
    · cases h
  · rintro ⟨hi, lo, hc, h5, h6, h7, h8, hb⟩
    rw [hostRx_eq_some.2 ⟨by omega, h5⟩, hostRx_eq_some.2 ⟨by omega, h6⟩, hostRx_eq_some.2 ⟨by omega, h7⟩,
      hostRx_eq_some.2 ⟨hc, h8⟩]
    simp only [← hb]

/-- VERSION_RESP always answers: only `ret` changes, or also the session's version. -/
theorem execVersionResp_next (s : State) :
    (∃ r, execVersionResp s = .next (s.returning r)) ∨
      ∃ v, readVersionInfo s = some v ∧ execVersionResp s = .next ((s.keepVersion v).returning (.version v)) := by
  unfold execVersionResp readResponse
  split
  · exact .inl ⟨.refused .busy, rfl⟩
  · split
    · exact .inl ⟨.refused .notDone, rfl⟩
    · split
      · exact .inl ⟨.failure, rfl⟩
      · split
        · next v h => exact .inr ⟨v, h, rfl⟩
        · exact .inl ⟨.refused .badIndex, rfl⟩

/-- NUMHEATERS_RESP always answers: only `ret` changes, or also the session's heater count. -/
theorem execNumHeatersResp_next (s : State) :
    (∃ r, execNumHeatersResp s = .next (s.returning r)) ∨
      ∃ n, hostRx s 4 = some n ∧ execNumHeatersResp s = .next ((s.keepHeaterCount n).returning (.heaters n)) := by
  unfold execNumHeatersResp readResponse
  split
  · exact .inl ⟨.refused .busy, rfl⟩
  · split
    · exact .inl ⟨.refused .notDone, rfl⟩
    · split
      · exact .inl ⟨.failure, rfl⟩
      · split
        · next n h => exact .inr ⟨n, h, rfl⟩
        · exact .inl ⟨.refused .badIndex, rfl⟩

end Sys2Proof.Machine
end

