-- ==== Sys2Proof/Laws/PerInstr.lean ====
section
/-! SUPPORT. One fact about each instruction as syntax: a host operation's word begins with the number that
`spec/30_encoding.md` R104 gives it, and nothing else is a host word. -/

namespace Sys2Proof.Laws.HostNumber

/-- The number of R104, for the host operations. -/
def number : Instr → Option Byte
  | .encode _ _ _ _ => some 0
  | .ckfill => some 1
  | .start => some 2
  | .decode => some 3
  | .ckverify _ => some 4
  | .txwr _ _ => some 5
  | .txrd _ => some 6
  | .rxrd _ => some 7
  | .settxlen _ => some 8
  | .setrxlen _ => some 9
  | .csrrd _ => some 10
  | _ => none

/-- The encoding of a host operation is its number and then its operands; no other instruction is a host word. -/
def Statement (i : Instr) : Prop :=
  match number i with
  | some n => ∃ operands, Sys2Proof.encode i = .host (n :: operands)
  | none => ∀ w, Sys2Proof.encode i ≠ .host w

theorem getVersion : Statement .getVersion := fun _ h => by cases h
theorem numHeaters : Statement .numHeaters := fun _ h => by cases h
theorem forceReboot : Statement .forceReboot := fun _ h => by cases h
theorem forceReset : Statement .forceReset := fun _ h => by cases h
theorem setPwm (channel : Nat) (enabled : Bool) (period duty : Rat) :
    Statement (.setPwm channel enabled period duty) := fun _ h => by cases h
theorem versionResp : Statement .versionResp := fun _ h => by cases h
theorem numHeatersResp : Statement .numHeatersResp := fun _ h => by cases h
theorem encode (src dst cmd : Byte) (payload : List Byte) : Statement (.encode src dst cmd payload) := ⟨_, rfl⟩
theorem ckfill : Statement .ckfill := ⟨_, rfl⟩
theorem start : Statement .start := ⟨_, rfl⟩
theorem decode : Statement .decode := ⟨_, rfl⟩
theorem ckverify (n : Nat) : Statement (.ckverify n) := ⟨_, rfl⟩
theorem txwr (i : Nat) (v : Byte) : Statement (.txwr i v) := ⟨_, rfl⟩
theorem txrd (i : Nat) : Statement (.txrd i) := ⟨_, rfl⟩
theorem rxrd (i : Nat) : Statement (.rxrd i) := ⟨_, rfl⟩
theorem settxlen (n : Word16) : Statement (.settxlen n) := ⟨_, rfl⟩
theorem setrxlen (n : Word16) : Statement (.setrxlen n) := ⟨_, rfl⟩
theorem csrrd (n : Word16) : Statement (.csrrd n) := ⟨_, rfl⟩
theorem txAccept : Statement .txAccept := fun _ h => by cases h
theorem txAcceptLast : Statement .txAcceptLast := fun _ h => by cases h
theorem txError (e : ChanErr) : Statement (.txError e) := fun _ h => by cases h
theorem rxByte (b : Byte) : Statement (.rxByte b) := fun _ h => by cases h
theorem rxError (e : ChanErr) : Statement (.rxError e) := fun _ h => by cases h
theorem tickRead : Statement .tickRead := fun _ h => by cases h
theorem tickDelay : Statement .tickDelay := fun _ h => by cases h
theorem check : Statement .check := fun _ h => by cases h
theorem tickIdle : Statement .tickIdle := fun _ h => by cases h
theorem readVersion : Statement .readVersion := fun _ h => by cases h
theorem readReport : Statement .readReport := fun _ h => by cases h

end Sys2Proof.Laws.HostNumber
end

