-- ==== Sys2Proof/Laws/Run.lean ====
section
/-! SUPPORT. Runs of several steps, taken apart, and the interleavings of `Merged`. -/

namespace Sys2Proof.Machine

@[simp] theorem run_zero (s : State) : run 0 s = .next s := rfl

/-- A run whose first step is known. -/
theorem run_of_next {k : Nat} {s t : State} (h : step s = .next t) : run (k + 1) s = run k t := by
  have e : Sys2Proof.core.step s = .next t := h
  simp only [run, Host.Core.run, e]
  rfl

/-- A run that answers, cut after its first step. -/
theorem run_succ_eq_next {k : Nat} {s t : State} :
    run (k + 1) s = .next t ↔ ∃ u, step s = .next u ∧ run k u = .next t := by
  constructor
  · intro h
    cases hs : step s with
    | next u => exact ⟨u, rfl, (run_of_next hs).symm.trans h⟩
    | fault r =>
      have e : Sys2Proof.core.step s = .fault r := hs
      simp only [run, Host.Core.run, e, reduceCtorEq] at h
    | refused r =>
      have e : Sys2Proof.core.step s = .refused r := hs
      simp only [run, Host.Core.run, e, reduceCtorEq] at h
  · rintro ⟨u, hs, h⟩
    rw [run_of_next hs, h]

/-- A run whose first part is known. -/
theorem run_add {a b : Nat} {s t : State} (h : run a s = .next t) : run (a + b) s = run b t := by
  induction a generalizing s with
  | zero =>
    cases h
    rw [Nat.zero_add]
  | succ a ih =>
    obtain ⟨u, hs, hu⟩ := run_succ_eq_next.1 h
    rw [show a + 1 + b = a + b + 1 by omega, run_of_next hs, ih hu]

@[simp] theorem delivers_length (r : List Byte) : (delivers r).length = r.length := List.length_map _

@[simp] theorem ticks_zero : ticks 0 = [] := rfl

theorem ticks_succ (n : Nat) : ticks (n + 1) = .tick :: ticks n := rfl

/-- An interleaving holds the events and the ticks, and nothing else. -/
theorem Merged.length_eq {es q : List Event} {n : Nat} (h : Merged es n q) : q.length = es.length + n := by
  induction h with
  | nil => rfl
  | event e _ ih => simp only [List.length_cons, ih]; omega
  | tick _ ih => simp only [List.length_cons, ih]; omega

/-- The events alone. -/
theorem Merged.all_events (es : List Event) : Merged es 0 es := by
  induction es with
  | nil => exact .nil
  | cons e _ ih => exact .event e ih

/-- All the ticks, then the events. -/
theorem Merged.ticks_then (n : Nat) (es : List Event) : Merged es n (ticks n ++ es) := by
  induction n with
  | zero => exact Merged.all_events es
  | succ n ih => exact .tick ih

/-- Some events, then an interleaving of the others. -/
theorem Merged.after_events {es q : List Event} {n : Nat} (front : List Event) (h : Merged es n q) :
    Merged (front ++ es) n (front ++ q) := by
  induction front with
  | nil => exact h
  | cons e _ ih => exact .event e ih

end Sys2Proof.Machine
end

