-- ==== Sys2Proof/Laws/Step.lean ====
section
/-! SUPPORT. Everything one step can be. -/

namespace Sys2Proof.Machine

@[simp] theorem rowContext_taking (s : State) (rest : List Event) :
    rowContext (s.taking rest) = rowContext s := rfl

/-- The inputs that are no instruction. -/
theorem takeInput_eq_some {e : Event} {s t : State} :
    takeInput e s = some t ↔
      (∃ n v, e = .regWrite n v ∧ t = s.writeRegister n v) ∨ (e = .reset ∧ t = s.resetBlock) ∨
        ∃ level, e = .chanOpen level ∧ t = s.driveChanOpen level := by
  cases e <;> simp [takeInput, eq_comm (a := t)]

/-- An event that decodes is no such input. -/
theorem takeInput_of_decoded {c : RowContext} {e : Event} {i : Instr} (h : decodeEvent c e = .ok i) (s : State) :
    takeInput e s = none := by
  cases e <;> first | rfl | cases h

/-- What settles without an instruction. -/
theorem undecoded_eq_settled {why : DecodeError} {s t : State} :
    undecoded why s = .settled t ↔ (∃ op, why = .noSuchOperation op) ∧ t = s.refusing .noSuchOperation := by
  cases why <;> simp [undecoded, eq_comm (a := t)]

/-- An event without an instruction runs nothing. -/
theorem undecoded_ne_run (why : DecodeError) (s t : State) (i : Instr) : undecoded why s ≠ .run i t := by
  cases why <;> simp [undecoded]

/-- An event that is run is the instruction it decodes to, in the state it is offered in. -/
theorem offer_eq_run {e : Event} {s t : State} {i : Instr} :
    offer e s = .run i t ↔ decodeEvent (rowContext s) e = .ok i ∧ t = s := by
  constructor
  · intro h
    unfold offer at h
    split at h
    · cases h
    · split at h
      · next hd => cases h; exact ⟨hd, rfl⟩
      · exact absurd h (undecoded_ne_run _ _ _ _)
  · rintro ⟨hd, rfl⟩
    unfold offer
    rw [takeInput_of_decoded hd, hd]

/-- An event that settles is an input that is no instruction, or a host operation number without an operation. -/
theorem offer_eq_settled {e : Event} {s t : State} (h : offer e s = .settled t) :
    takeInput e s = some t ∨
      ∃ op, decodeEvent (rowContext s) e = .error (.noSuchOperation op) ∧ t = s.refusing .noSuchOperation := by
  unfold offer at h
  split at h
  · next hi => cases h; exact .inl hi
  · split at h
    · cases h
    · next hd =>
      obtain ⟨⟨op, rfl⟩, ht⟩ := undecoded_eq_settled.1 h
      exact .inr ⟨op, hd, ht⟩

/-- A step with an event scheduled. -/
theorem step_cons {s : State} {e : Event} {rest : List Event} (hq : s.schedule = e :: rest) :
    step s = match offer e (s.taking rest) with
      | .run i s' => exec i s'
      | .settled s' => .next s'
      | .stuck r => .refused r :=
  have hf : fetch s = offer e (s.taking rest) := by simp only [fetch, hq]
  congrArg (fun f : Fetched => match f with
    | .run i s' => exec i s'
    | .settled s' => Host.Outcome.next s'
    | .stuck r => .refused r) hf

/-- A step with nothing scheduled: the engine's own Check, or none. -/
theorem step_nil {s : State} (hq : s.schedule = []) :
    step s = if s.seq = .check then exec .check s else .refused .noEvent := by
  unfold step fetch
  rw [hq]
  by_cases hc : s.seq = .check <;> simp only [hc, if_true, if_false]

/-- A step that answers is one of: the engine's own Check, a scheduled instruction, reset, a change of `CHAN_OPEN`,
a host operation number without an operation, a register write by number. -/
theorem step_eq_next {s t : State} (h : step s = .next t) :
    (s.schedule = [] ∧ s.seq = .check ∧ exec .check s = .next t) ∨
      ∃ e rest, s.schedule = e :: rest ∧
        ((∃ i, decodeEvent (rowContext s) e = .ok i ∧ exec i (s.taking rest) = .next t) ∨
          (e = .reset ∧ t = (s.taking rest).resetBlock) ∨
          (∃ level, e = .chanOpen level ∧ t = (s.taking rest).driveChanOpen level) ∨
          (∃ op, decodeEvent (rowContext s) e = .error (.noSuchOperation op) ∧
            t = (s.taking rest).refusing .noSuchOperation) ∨
          (∃ n v, e = .regWrite n v ∧ t = (s.taking rest).writeRegister n v)) := by
  cases hq : s.schedule with
  | nil =>
    rw [step_nil hq] at h
    by_cases hc : s.seq = .check
    · rw [if_pos hc] at h; exact .inl ⟨rfl, hc, h⟩
    · rw [if_neg hc] at h; cases h
  | cons e rest =>
    refine .inr ⟨e, rest, rfl, ?_⟩
    rw [step_cons hq] at h
    split at h
    · next ho =>
      obtain ⟨hd, rfl⟩ := offer_eq_run.1 ho
      exact .inl ⟨_, hd, h⟩
    · next ho =>
      cases h
      rcases offer_eq_settled ho with hi | ⟨op, hd, ht⟩
      · rcases takeInput_eq_some.1 hi with hw | hr | hc
        · exact .inr (.inr (.inr (.inr hw)))
        · exact .inr (.inl hr)
        · exact .inr (.inr (.inl hc))
      · exact .inr (.inr (.inr (.inl ⟨op, hd, ht⟩)))
    · cases h

/-- A step that faults is the engine's own Check or a scheduled instruction that faults: no input does. -/
theorem step_eq_fault {s : State} {r : Fault} (h : step s = .fault r) :
    exec .check s = .fault r ∨ ∃ i rest, exec i (s.taking rest) = .fault r := by
  cases hq : s.schedule with
  | nil =>
    rw [step_nil hq] at h
    split at h
    · exact .inl h
    · cases h
  | cons e rest =>
    rw [step_cons hq] at h
    split at h
    · next i u ho =>
      obtain ⟨_, rfl⟩ := offer_eq_run.1 ho
      exact .inr ⟨i, rest, h⟩
    · cases h
    · cases h

/-- A scheduled instruction is run as it stands. -/
theorem step_run {s : State} {e : Event} {rest : List Event} {i : Instr} (hq : s.schedule = e :: rest)
    (hd : decodeEvent (rowContext s) e = .ok i) : step s = exec i (s.taking rest) := by
  have ho : offer e (s.taking rest) = .run i (s.taking rest) := offer_eq_run.2 ⟨hd, rfl⟩
  rw [step_cons hq, ho]

/-- An input that is no instruction. -/
theorem step_input {s t : State} {e : Event} {rest : List Event} (hq : s.schedule = e :: rest)
    (hi : takeInput e (s.taking rest) = some t) : step s = .next t := by
  have ho : offer e (s.taking rest) = .settled t := by unfold offer; rw [hi]
  rw [step_cons hq, ho]

/-- An event that decodes to nothing. -/
theorem step_undecoded {s : State} {e : Event} {rest : List Event} {why : DecodeError} (hq : s.schedule = e :: rest)
    (hi : takeInput e (s.taking rest) = none) (hd : decodeEvent (rowContext s) e = .error why) :
    step s = match undecoded why (s.taking rest) with
      | .run i s' => exec i s'
      | .settled s' => .next s'
      | .stuck r => .refused r := by
  have ho : offer e (s.taking rest) = undecoded why (s.taking rest) := by
    unfold offer
    rw [hi, rowContext_taking, hd]
  rw [step_cons hq, ho]

/-- The reset input. -/
theorem step_reset {s : State} {rest : List Event} (hq : s.schedule = .reset :: rest) :
    step s = .next (s.taking rest).resetBlock := step_input hq rfl

/-- A change of `CHAN_OPEN`. -/
theorem step_chanOpen {s : State} {level : Bool} {rest : List Event} (hq : s.schedule = .chanOpen level :: rest) :
    step s = .next ((s.taking rest).driveChanOpen level) := step_input hq rfl

/-- A register write by number. -/
theorem step_regWrite {s : State} {n v : Word16} {rest : List Event} (hq : s.schedule = .regWrite n v :: rest) :
    step s = .next ((s.taking rest).writeRegister n v) := step_input hq rfl

end Sys2Proof.Machine
end

