-- ==== Sys2Proof/Tests/Slice0.lean ====
section
/-! SUPPORT. The model's own tests: the checks of `WellFormed`, words written out from `spec/30_encoding.md`,
vectors of `spec/95_test_vectors.md` (V1 to V57, in rule form where `SOM`, the command codes or `T_RD` are OPEN), and
for each statement a concrete state that meets its hypotheses. -/

namespace Sys2Proof.Tests

open Sys2Proof.Machine

/-- What a field is after an instruction that answers a next state. -/
def after {α : Type} (a : Answer) (f : State → α) : Option α :=
  match a with
  | .next s => some (f s)
  | .fault _ => none
  | .refused _ => none

/-! ### WellFormed: one ill-formed term for each check -/

theorem test_wf_encode_count :
    (Instr.encode 1 2 3 (List.replicate 65536 0)).wellFormed = false := by
  simp only [Instr.wellFormed, List.length_replicate]; decide

theorem test_wf_ckverify : (Instr.ckverify 65536).wellFormed = false := by decide
theorem test_wf_txwr : (Instr.txwr 65536 0).wellFormed = false := by decide
theorem test_wf_txrd : (Instr.txrd 65536).wellFormed = false := by decide
theorem test_wf_rxrd : (Instr.rxrd 65536).wellFormed = false := by decide

theorem test_wf_largest :
    (Instr.ckverify 65535).wellFormed ∧ (Instr.txwr 65535 0xFF).wellFormed ∧ (Instr.txrd 65535).wellFormed ∧
      (Instr.rxrd 65535).wellFormed := by decide

theorem test_selected_rows :
    Instr.txAccept.selectedBy ⟨.write, true⟩ = false ∧ Instr.txAcceptLast.selectedBy ⟨.write, false⟩ = false ∧
      Instr.tickRead.selectedBy ⟨.delay, false⟩ = false ∧ Instr.tickDelay.selectedBy ⟨.read, false⟩ = false ∧
        Instr.tickIdle.selectedBy ⟨.read, false⟩ = false ∧ Instr.tickIdle.selectedBy ⟨.delay, false⟩ = false := by
  decide

/-! ### Decoding: words written out from R104 and R92 -/

/-- `ENCODE 0x01, 0x02, 0xB5, [0x12, 0x34]` (the operands of V17). -/
theorem test_decode_encode :
    decodeHost [0x00, 0x01, 0x02, 0xB5, 0x00, 0x02, 0x12, 0x34] = .ok (.encode 0x01 0x02 0xB5 [0x12, 0x34], []) :=
  rfl

theorem test_decode_ckfill : decodeHost [0x01] = .ok (.ckfill, []) := rfl
theorem test_decode_start : decodeHost [0x02] = .ok (.start, []) := rfl
theorem test_decode_decode : decodeHost [0x03] = .ok (.decode, []) := rfl
theorem test_decode_ckverify : decodeHost [0x04, 0x01, 0x02] = .ok (.ckverify 258, []) := rfl
theorem test_decode_txwr : decodeHost [0x05, 0x01, 0x01, 0xA5] = .ok (.txwr 257 0xA5, []) := rfl
theorem test_decode_txrd : decodeHost [0x06, 0x01, 0x00] = .ok (.txrd 256, []) := rfl
theorem test_decode_rxrd : decodeHost [0x07, 0x00, 0x08] = .ok (.rxrd 8, []) := rfl
theorem test_decode_settxlen : decodeHost [0x08, 0xFE, 0x06] = .ok (.settxlen 0xFE06, []) := rfl
theorem test_decode_setrxlen : decodeHost [0x09, 0x00, 0x0A] = .ok (.setrxlen 10, []) := rfl
theorem test_decode_csrrd : decodeHost [0x0A, 0x00, 0x0A] = .ok (.csrrd 10, []) := rfl

/-- The first number without an operation, and the last (R104). -/
theorem test_decode_no_operation :
    decodeHost [0x0B, 0, 0] = .error (.noSuchOperation 0x0B) ∧
      decodeHost [0xFF, 0, 0] = .error (.noSuchOperation 0xFF) := ⟨rfl, rfl⟩

/-- A word that ends before its operands do. -/
theorem test_decode_short :
    decodeHost [] = .error .shortWord ∧ decodeHost [0x07, 0x00] = .error .shortWord ∧
      decodeHost [0x00, 0x01, 0x02, 0xB5, 0x00, 0x02, 0x12] = .error .shortWord := ⟨rfl, rfl, rfl⟩

/-- A request frame written out byte by byte: `[SOM, 0x03, 0x01, 0x02, c, 250 - c]` (R211, S8). -/
def requestBytes (c : Byte) : List Byte := [Config.som, 0x03#8, 0x01#8, 0x02#8, c, 250#8 - c]

theorem request_trailer (c : Byte) : bodyCksum [0x03#8, 0x01#8, 0x02#8, c] = 250#8 - c := by
  apply BitVec.eq_of_toNat_eq
  have hc := c.isLt
  have e : ((bodyCksum [0x03#8, 0x01#8, 0x02#8, c]).toNat : Int) = (-(3 + (1 + (2 + c.toInt)))) % 256 := by
    simp only [bodyCksum, BitVec.toNat_ofInt, signedSum, s8, Int.add_zero]
    exact Int.toNat_of_nonneg (Int.emod_nonneg _ (by decide))
  have e2 : (250#8 - c).toNat = (256 - c.toNat + 250) % 256 := BitVec.toNat_sub _ _
  rw [BitVec.toInt_eq_toNat_cond] at e
  split at e <;> omega

theorem request_wellFormed (c : Byte) : isWellFormedFrame (requestBytes c) = true := by
  have h : cksum (requestBytes c) = 250#8 - c := request_trailer c
  simp only [isWellFormedFrame, isSomOk, isLenOk, isCkOk, byteAt, h]
  simp [requestBytes]

/-- Each of the four request rows is read from its six bytes (R211, R215, R219, R220). -/
theorem test_decode_requests :
    decodeFrame (requestBytes Config.cmdGetVersion) = .ok .getVersion ∧
      decodeFrame (requestBytes Config.cmdNumHeaters) = .ok .numHeaters ∧
        decodeFrame (requestBytes Config.cmdForceReboot) = .ok .forceReboot ∧
          decodeFrame (requestBytes Config.cmdForceReset) = .ok .forceReset := by
  have hne : ∀ a b : Byte, a ≠ b → Config.commandCode a ≠ Config.commandCode b :=
    fun a b h e => h (Config.commandCode_inj e)
  have hf : ∀ c, decodeFrame (requestBytes c) = if c = Config.cmdGetVersion then .ok .getVersion
      else if c = Config.cmdNumHeaters then .ok .numHeaters
      else if c = Config.cmdForceReboot then .ok .forceReboot
      else if c = Config.cmdForceReset then .ok .forceReset
      else if c = Config.cmdSetPwm then .error .setPwmFrame
      else .error .unknownCommand :=
    fun c => if_pos ⟨request_wellFormed c, rfl, rfl⟩
  refine ⟨(hf _).trans (if_pos rfl), (hf _).trans ((if_neg (hne _ _ (by decide))).trans (if_pos rfl)),
    (hf _).trans ((if_neg (hne _ _ (by decide))).trans ((if_neg (hne _ _ (by decide))).trans (if_pos rfl))),
    (hf _).trans ((if_neg (hne _ _ (by decide))).trans
      ((if_neg (hne _ _ (by decide))).trans ((if_neg (hne _ _ (by decide))).trans (if_pos rfl))))⟩

/-- A frame of another length, or from another device, is no request. -/
theorem test_decode_not_a_request :
    decodeFrame [] = .error .notARequest ∧
      decodeFrame [Config.som, 0x04, 0x01, 0x02, 0x03, 0x00, 0xF6] = .error .notARequest ∧
        ∀ a b c d, decodeFrame [a, b, 0x02, 0x01, c, d] = .error .notARequest :=
  ⟨rfl, rfl, fun a b c d => if_neg (fun h => absurd h.2.1 (by decide))⟩

/-- The session operations by name (R105, R221, R222). -/
theorem test_decode_calls :
    decodeCall .handshake = .getVersion ∧ decodeCall .discoverChannels = .numHeaters ∧
      decodeCall (.setPwm 0 true 1 1) = .setPwm 0 true 1 1 ∧ decodeCall .forceReboot = .forceReboot ∧
        decodeCall .forceReset = .forceReset ∧ decodeCall .readVersion = .readVersion ∧
          decodeCall .readReport = .readReport ∧ decodeCall .handshakeResult = .versionResp ∧
            decodeCall .discoverResult = .numHeatersResp := by
  refine ⟨rfl, rfl, rfl, rfl, rfl, rfl, rfl, rfl, rfl⟩

/-- The events and their rows (R161, R162). -/
theorem test_decode_events :
    decodeEvent ⟨.write, false⟩ .txAccept = .ok .txAccept ∧
      decodeEvent ⟨.write, true⟩ .txAccept = .ok .txAcceptLast ∧
        decodeEvent ⟨.write, false⟩ (.txError 0x05) = .ok (.txError 0x05) ∧
          decodeEvent ⟨.read, false⟩ (.rxByte 0xF2) = .ok (.rxByte 0xF2) ∧
            decodeEvent ⟨.read, false⟩ (.rxError 0x09) = .ok (.rxError 0x09) ∧
              decodeEvent ⟨.read, false⟩ .tick = .ok .tickRead ∧
                decodeEvent ⟨.delay, false⟩ .tick = .ok .tickDelay ∧
                  decodeEvent ⟨.check, false⟩ .tick = .ok .tickIdle ∧
                    decodeEvent ⟨.check, false⟩ .check = .ok .check := by
  refine ⟨rfl, rfl, rfl, rfl, rfl, rfl, rfl, rfl, rfl⟩

/-! ### States of the vectors -/

/-- V13 after CKFILL. -/
def command : List Byte := [0x3B, 0x03, 0x01, 0x02, 0xFE, 0xFC]

/-- V21. -/
def response : List Byte := [0x3B, 0x07, 0x02, 0x01, 0xFE, 0x01, 0x00, 0x00, 0x05, 0xF2]

/-- V24: one byte corrupted. -/
def corrupted : List Byte := [0x3B, 0x07, 0x02, 0x01, 0xFE, 0x01, 0x00, 0x00, 0x04, 0xF2]

/-- The start state of V33 to V44, idle. -/
def ready : State :=
  { State.reset with chanOpen := true, txlen := 6, rxlen := 10, txbuf := Memory.writeList [] 0 command }

/-- In `WRITE`, attempt 1. -/
def writing : State := { ready with seq := .write, attempt := 1, trace := [.tx 1 command] }

/-- In `READ`, attempt 1, the last tick pending. -/
def reading : State := { writing with seq := .read, txidx := 6, timer := 1 }

/-- In `CHECK` with a response. -/
def checking (r : List Byte) : State :=
  { reading with
    seq := .check, rxcnt := 10, rxbuf := Memory.writeList [] 0 r,
    ckAcc := accOf r 10 }

/-- In `DELAY` after attempt 1. -/
def delaying : State := { writing with
  seq := .delay, timer := 101, cause := .timeout, trace := [.tx 1 command, .rx 1 []] }

/-- Idle after a transaction that stored `r`. -/
def completed (r : List Byte) (v : Verdict) : State :=
  { ready with
    attempt := 1, done := true, result := v, rxcnt := 10, rxbuf := Memory.writeList [] 0 r }

/-! ### Vectors -/

/-- V1 to V12. -/
theorem test_cksum :
    bodyCksum [] = 0x00 ∧ bodyCksum [0x00] = 0x00 ∧ bodyCksum [0x80] = 0x80 ∧ bodyCksum [0x80, 0x80] = 0x00 ∧
      bodyCksum [0x7F, 0x01] = 0x80 ∧ bodyCksum [0xFF] = 0x01 ∧ bodyCksum [0x01] = 0xFF ∧
        bodyCksum [0x10, 0x20, 0x30, 0x40] = 0x60 ∧
          cksum [0x3B, 0x07, 0x02, 0x01, 0xFE, 0x01, 0x00, 0x00, 0x05, 0x00] = 0xF2 := by decide

/-- V13, V17: after ENCODE the bytes from index 1 on, the trailer 0x00. -/
theorem test_encode :
    after (exec (.encode 0x01 0x02 0xB5 [0x12, 0x34]) ready) (fun s => s.txbuf.slice 1 7) =
        some (some [0x05, 0x01, 0x02, 0xB5, 0x12, 0x34, 0x00]) ∧
      after (exec (.encode 0x01 0x02 0xFE []) ready) (·.txlen) = some 6 := by decide

/-- V13: CKFILL fills the trailer. -/
theorem test_ckfill :
    after (exec .ckfill { ready with txbuf := Memory.writeList [] 0 [0x3B, 0x03, 0x01, 0x02, 0xFE, 0x00] })
      (·.txbuf) = some (Memory.writeList [] 0 command) := by decide

/-- V21: the fields of a response. -/
theorem test_decode_fields :
    after (exec .decode (completed response .ok)) (·.ret) =
      some (.fields ⟨0x3B, 0x07, 0x02, 0x01, 0xFE, [0x01, 0x00, 0x00, 0x05], 0xF2⟩) := by decide

/-- V24: DECODE is refused after `FAIL_CHECKSUM`, RXRD is not. -/
theorem test_decode_refused :
    after (exec .decode (completed corrupted .failChecksum)) (·.ret) = some (.refused .notOk) ∧
      after (exec (.rxrd 8) (completed corrupted .failChecksum)) (·.ret) = some (.byte 0x04) := by decide

/-- V21, V24: CKVERIFY 10. -/
theorem test_ckverify :
    after (exec (.ckverify 10) (completed response .ok)) (·.ret) = some (.flag true) ∧
      after (exec (.ckverify 10) (completed corrupted .failChecksum)) (·.ret) = some (.flag false) := by decide

theorem test_txwr_txrd :
    after (exec (.txwr 257 0xA5) ready) (fun s => s.txbuf.read 257) = some (some 0xA5) ∧
      after (exec (.txrd 4) writing) (·.ret) = some (.byte 0xFE) := by decide

/-- Bits 15 to 9 of a length operand are dropped (R122). -/
theorem test_lengths :
    after (exec (.settxlen 0xFE06) ready) (·.txlen) = some 6 ∧
      after (exec (.setrxlen 0x0102) ready) (·.rxlen) = some 258 := by decide

/-- A register write by number (R40): a length keeps its low 9 bits, also above 258; a read-only register and a number
without one are refused. -/
theorem test_regWrite :
    (ready.writeRegister 2 0xFFFF).txlen = 511 ∧ (ready.writeRegister 3 0x0107).rxlen = 263 ∧
      ready.writeRegister 10 7 = { ready with ret := .refused .readOnly } ∧
        ready.writeRegister 11 7 = { ready with ret := .refused .badRegister } := by decide

/-- While a transaction is in flight the lengths cannot be written (R40, R43). -/
theorem test_regWrite_busy : writing.writeRegister 2 7 = { writing with ret := .refused .busy } := by decide

/-- V51, V53, V54, V55, V56: `STATUS`. -/
theorem test_status :
    statusWord State.reset = 0x0000 ∧ statusWord (completed response .ok) = 0x0006 ∧
      statusWord { completed response .ok with cause := .writeErr, errcode := 0x05 } = 0x0526 ∧
        statusWord { ready with done := true, result := .failTransport, cause := .timeout } = 0x006A ∧
          statusWord (completed corrupted .failChecksum) = 0x000E := by decide

/-- V57, and CSRRD of `PSTAT`. -/
theorem test_pstat :
    after (exec (.csrrd 1) { ready with ckCalc := 0xC4 }) (·.ret) = some (.word 0xC400) := by decide

/-- V33: START clears an old verdict and begins attempt 1. -/
theorem test_start :
    after (exec .start { ready with done := true, result := .failTransport, cause := .timeout, attempt := 3 })
      (fun s => (statusWord s, s.seq, s.attempt, s.trace)) = some (0x0001, .write, 1, [.tx 1 command]) := by
  decide

/-- V34, V35: START failing at once, `NOT_OPEN` first. -/
theorem test_start_fails :
    after (exec .start { ready with rxlen := 1 }) statusWord = some 0x0092 ∧
      after (exec .start { ready with rxlen := 1, chanOpen := false }) statusWord = some 0x00B2 := by decide

/-- V36. -/
theorem test_txAccept :
    after (exec .txAccept { writing with txidx := 4 }) (fun s => (s.seq, s.txidx, s.wire)) =
      some (.write, 5, [0xFE]) := by decide

/-- V37. -/
theorem test_txAcceptLast :
    after (exec .txAcceptLast { writing with txidx := 5 }) (fun s => (s.seq, s.txidx, s.wire)) =
        some (.read, 6, [0xFC]) ∧
      after (exec .txAcceptLast { writing with txidx := 5 }) (·.timer) = some Config.tRd := ⟨by decide, rfl⟩

/-- V38, V39. -/
theorem test_txError :
    after (exec (.txError 0x05) { writing with txidx := 2 })
        (fun s => (s.seq, s.timer, s.cause, s.errcode, s.txidx)) = some (.delay, 101, .writeErr, 0x05, 2) ∧
      after (exec (.txError 0x05) { writing with attempt := 3 }) statusWord = some 0x052A := by decide

/-- V40, V41. -/
theorem test_rxByte :
    after (exec (.rxByte 0x05) { reading with rxcnt := 8, timer := 400 })
        (fun s => (s.seq, s.rxbuf.read 8, s.rxcnt, s.timer)) = some (.read, some 0x05, 9, 400) ∧
      after (exec (.rxByte 0xF2) { reading with rxcnt := 9 }) (fun s => (s.seq, s.rxcnt)) =
        some (.check, 10) := by decide

/-- V46. -/
theorem test_rxError :
    after (exec (.rxError 0x09) { checking response with seq := .read, attempt := 3, rxcnt := 4 })
      (fun s => (statusWord s, s.rxcnt)) = some (0x094A, 4) := by decide

/-- V42, V43: one byte short still times out. -/
theorem test_tickRead :
    after (exec .tickRead { reading with timer := 2 }) (·.timer) = some 1 ∧
      after (exec .tickRead { checking response with seq := .read, attempt := 2, rxcnt := 9, errcode := 0x07 })
        (fun s => (s.seq, s.timer, s.cause, s.errcode)) = some (.delay, 101, .timeout, 0x07) := by decide

/-- V44. -/
theorem test_tickDelay :
    after (exec .tickDelay { delaying with timer := 1, attempt := 2, txidx := 6, rxcnt := 4 })
      (fun s => (s.seq, s.attempt, [s.txidx, s.rxcnt], s.timer, s.trace.getLast?)) =
        some (.write, 3, [0, 0], 0, some (.tx 3 command)) := by decide

/-- V45. -/
theorem test_tickIdle : exec .tickIdle { writing with timer := 7 } = .next { writing with timer := 7 } := rfl

/-- V47, V48, but for `SOM_OK`, which compares with the OPEN `SOM`. -/
theorem test_check :
    after (exec .check (checking response)) (fun s => (statusWord s, s.ckCalc, s.lenOk, s.ckOk)) =
        some (0x0006, 0xF2, true, true) ∧
      after (exec .check (checking corrupted)) (fun s => (statusWord s, s.ckCalc, s.ckOk, s.attempt)) =
        some (0x000E, 0xF3, false, 1) := by decide

/-- V27, V28, V30: `major`, `minor`, `build`, and the string of R213. -/
theorem test_versionResp :
    after (exec .versionResp (completed response .ok)) (·.ret) = some (.version ⟨1, 0, 5⟩) ∧
      after (exec .versionResp (completed [0x3B, 0x07, 0x02, 0x01, 0xFE, 0x02, 0x0B, 0x01, 0x2C, 0xBE] .ok)) (·.ret) =
        some (.version ⟨2, 11, 300⟩) := by decide

theorem test_versionString :
    versionString ⟨1, 0, 5⟩ = "1.0 (5)" ∧ versionString ⟨2, 11, 300⟩ = "2.11 (300)" := by decide

/-- V31: the count at offset 4, and the registry's length. -/
theorem test_numHeatersResp :
    after (exec .numHeatersResp
        { completed [0x3B, 0x04, 0x02, 0x01, 0x03, 0x00, 0xF6] .ok with rxcnt := 7, rxlen := 7 }) (·.ret) =
      some (.heaters 3) ∧ (channelRegistry 3).length = 3 := by decide

/-- P9: the stubs. -/
theorem test_stubs :
    exec (.setPwm 0 true 1 1) ready = .next { ready with ret := .unsupported } ∧
      exec .forceReboot ready = .next { ready with ret := .unsupported } ∧
        exec .forceReset ready = .next { ready with ret := .unsupported } ∧
          exec .readVersion ready = .next { ready with ret := .unsupported } ∧
            exec .readReport ready = .next { ready with ret := .unsupported } := ⟨rfl, rfl, rfl, rfl, rfl⟩

/-- A closed channel turns a session request away, the frame's length staying in `TXLEN` (P7). -/
theorem test_getVersion_closed :
    after (exec .getVersion State.reset) (fun s => (s.seq, s.cause, s.txlen, s.rxlen)) =
      some (.idle, .notOpen, 6, 10) := rfl

theorem test_numHeaters_closed :
    after (exec .numHeaters State.reset) (fun s => (s.seq, s.cause, s.txlen)) = some (.idle, .notOpen, 6) := rfl

/-! ### Witnesses: for each statement with hypotheses, states and operands that meet them -/

/-- The good idle state before a START. -/
theorem inv_ready : Inv ready := by
  constructor
  case buffers => exact ⟨by decide, rfl⟩
  case counted => exact ⟨[], rfl⟩
  all_goals simp [ready, State.reset]

theorem inv_writing : Inv writing := by
  constructor
  case buffers => exact ⟨by decide, rfl⟩
  case counted => exact ⟨[], rfl⟩
  case inFlight => exact fun _ => ⟨by decide, ⟨command, by decide⟩, by decide, rfl, rfl, rfl, rfl, rfl, rfl⟩
  case writing => exact fun _ => ⟨by decide, rfl⟩
  all_goals simp [writing, ready, State.reset]

/-- The last attempt. -/
theorem inv_writing_last : Inv { writing with attempt := 3 } := by
  constructor
  case buffers => exact ⟨by decide, rfl⟩
  case counted => exact ⟨[], rfl⟩
  case inFlight => exact fun _ => ⟨by decide, ⟨command, by decide⟩, by decide, rfl, rfl, rfl, rfl, rfl, rfl⟩
  case writing => exact fun _ => ⟨by decide, rfl⟩
  all_goals simp [writing, ready, State.reset]

theorem inv_reading : Inv reading := by
  constructor
  case buffers => exact ⟨by decide, rfl⟩
  case counted => exact ⟨[], rfl⟩
  case inFlight => exact fun _ => ⟨by decide, ⟨command, by decide⟩, by decide, rfl, rfl, rfl, rfl, rfl, rfl⟩
  case reading => exact fun _ => ⟨rfl, by decide, by decide, Config.one_le_tRd⟩
  case streamed => exact fun _ b hb => by cases Option.some.inj (hb : some [] = some b); decide
  all_goals simp [reading, writing, ready, State.reset]

theorem inv_checking : Inv (checking response) := by
  constructor
  case buffers => exact ⟨by decide, by decide⟩
  case counted => exact ⟨response, by decide⟩
  case inFlight => exact fun _ => ⟨by decide, ⟨command, by decide⟩, by decide, rfl, rfl, rfl, rfl, rfl, rfl⟩
  case checking => exact fun _ => ⟨rfl, rfl⟩
  case streamed => exact fun _ b hb => by cases Option.some.inj (hb : some response = some b); rfl
  all_goals simp [checking, reading, writing, ready, State.reset]

theorem inv_delaying : Inv delaying := by
  constructor
  case buffers => exact ⟨by decide, rfl⟩
  case counted => exact ⟨[], rfl⟩
  case inFlight => exact fun _ => ⟨by decide, ⟨command, by decide⟩, by decide, rfl, rfl, rfl, rfl, rfl, rfl⟩
  case delaying => exact fun _ => ⟨by decide, by decide, by decide, Nat.le_refl _, by decide, by decide⟩
  all_goals simp [delaying, writing, ready, State.reset]

theorem witness_EncodedInstructionDecodesBack :
    ((Instr.txwr 65535 0xFF).wellFormed = true ∧ (Instr.txwr 65535 0xFF).selectedBy ⟨.idle, false⟩ = true) ∧
      (Instr.tickDelay.wellFormed = true ∧ Instr.tickDelay.selectedBy ⟨.delay, false⟩ = true) ∧
        (Instr.txAcceptLast.wellFormed = true ∧ Instr.txAcceptLast.selectedBy ⟨.write, true⟩ = true) ∧
          ((Instr.encode 1 2 3 []).wellFormed = true ∧
            (Instr.encode 1 2 3 []).selectedBy ⟨.idle, false⟩ = true) := by decide

theorem witness_HostWordIsReadUpToItsEnd :
    (Instr.txwr 257 0xA5).wellFormed = true ∧
      encode (.txwr 257 0xA5) = .host [0x05, 0x01, 0x01, 0xA5] := by decide

/-- A host word with a byte after it, a frame that decodes, frames that do not (another length, another device, a code
that is none of the five). -/
theorem witness_WordsAndFramesHaveOneReading :
    decodeHost [0x05, 0x01, 0x01, 0xA5, 0x77] = .ok (.txwr 257 0xA5, [0x77]) ∧
      decodeFrame (requestBytes Config.cmdForceReset) = .ok .forceReset ∧
      ([] : List Byte).length ≠ 6 ∧ ([0x3B, 0x03, 0x02, 0x01, 0xFE, 0xFC] : List Byte)[2]? ≠ some 0x01#8 ∧
        ∃ c, c ≠ Config.cmdGetVersion ∧ c ≠ Config.cmdNumHeaters ∧ c ≠ Config.cmdForceReboot ∧
          c ≠ Config.cmdForceReset ∧ c ≠ Config.cmdSetPwm := by
  have hne : ∀ a : Byte, a ≠ 5#8 → Config.commandCode 5#8 ≠ Config.commandCode a :=
    fun a h e => h (Config.commandCode_inj e).symm
  exact ⟨rfl, test_decode_requests.2.2.2, by decide, by decide, Config.commandCode 5#8, hne _ (by decide),
    hne _ (by decide), hne _ (by decide), hne _ (by decide), hne _ (by decide)⟩

/-- The first and the last number without an operation. -/
theorem witness_OperationNumbersDecodeAsTabled :
    (11 ≤ 11 ∧ 11 < 256) ∧ (11 ≤ 255 ∧ 255 < 256) ∧ 11 ≤ (0x0B : Byte).toNat ∧ 11 ≤ (0xFF : Byte).toNat := by decide

/-- The least and the greatest number without an operation. -/
theorem witness_UnusedOperationNumberChangesNothing :
    (11 ≤ (0x0B : Byte).toNat ∧ { ready with schedule := [.host [0x0B]] }.schedule = .host (0x0B :: []) :: []) ∧
      (11 ≤ (0xFF : Byte).toNat ∧
        { ready with schedule := [.host [0xFF, 0x01]] }.schedule = .host (0xFF :: [0x01]) :: []) := by decide

theorem witness_ChecksumIsTheNegatedSignedSum : 2 ≤ ([0x00, 0x00] : List Byte).length ∧ 2 ≤ response.length := by
  decide

/-- The longest body a frame has. -/
theorem witness_SumsFitSixteenBits : (List.replicate 256 (0x80 : Byte)).length ≤ 256 := by
  rw [List.length_replicate]

theorem witness_ChecksumAloneZeroesTheSum : 2 ≤ ([0x55, 0x00] : List Byte).length := by decide

theorem witness_AccumulatorGivesTheChecksum :
    Inv (checking response) ∧ (checking response).seq = .check ∧
      (checking response).rxbuf.slice 0 (checking response).rxlen.toNat = some response :=
  ⟨inv_checking, rfl, by decide⟩

theorem witness_ChecksumIsRecomputable : ∃ t, exec .ckfill ready = .next t := ⟨_, rfl⟩

/-- S2, V24: one corrupted payload byte; the first and the last index that are checked. -/
theorem witness_SingleCorruptionIsDetected :
    (2 ≤ response.length ∧ corrupted.length = response.length ∧ isCkOk response = true ∧ 1 ≤ 8 ∧
      8 < response.length ∧ response[8]? ≠ corrupted[8]? ∧ ∀ i, i < 10 → i ≠ 8 → response[i]? = corrupted[i]?) ∧
    (isCkOk [0x00, 0x00] = true ∧ 1 < ([0x00, 0x00] : List Byte).length ∧
      ([0x00, 0x00] : List Byte)[1]? ≠ ([0x00, 0x01] : List Byte)[1]?) := by decide

theorem witness_SingleCorruptionIsDetected_rest (i : Nat) (h : i ≠ 8) : response[i]? = corrupted[i]? := by
  by_cases hi : i < 10
  · exact witness_SingleCorruptionIsDetected.1.2.2.2.2.2.2 i hi h
  · rw [List.getElem?_eq_none (Nat.not_lt.1 hi), List.getElem?_eq_none (Nat.not_lt.1 hi)]

theorem witness_UndetectedChanges :
    response.length = (0x00 :: response.tail).length ∧
      unsignedSum response.tail % 256 = unsignedSum (0x00 :: response.tail).tail % 256 ∧
        List.Perm ([0x01, 0x02] : List Byte) [0x02, 0x01] := ⟨by decide, by decide, List.Perm.swap _ _ _⟩

/-- A buffer filled with one byte reads back as it. -/
theorem slice_filled (n i : Nat) (b : Byte) :
    (Memory.writeList [] i (List.replicate n b)).slice i n = some (List.replicate n b) := by
  have h := Memory.slice_writeList (List.replicate n b) [] i
  rwa [List.length_replicate] at h

/-- The least and the greatest command, and each way out. -/
theorem witness_CkfillWritesTheTrailer :
    (ready.seq = .idle ∧ { ready with txlen := 2 }.txbuf.slice 1 0 = some [] ∧
      { ready with txlen := 2 }.txlen.toNat = 2) ∧
    (let s : State := { ready with txlen := 258, txbuf := Memory.writeList [] 1 (List.replicate 256 0xFF) };
      s.seq = .idle ∧ s.txlen.toNat = 256 + 2 ∧ s.txbuf.slice 1 256 = some (List.replicate 256 0xFF)) ∧
    writing.seq ≠ .idle ∧
    (¬(2 ≤ { ready with txlen := 1 }.txlen.toNat ∧ { ready with txlen := 1 }.txlen.toNat ≤ 258) ∧
      ¬(2 ≤ { ready with txlen := 259 }.txlen.toNat ∧ { ready with txlen := 259 }.txlen.toNat ≤ 258)) ∧
    { ready with txlen := 9 }.txbuf.slice 1 ({ ready with txlen := 9 }.txlen.toNat - 2) = none := by
  refine ⟨⟨rfl, rfl, rfl⟩, ⟨rfl, rfl, by dsimp only; exact slice_filled 256 1 0xFF⟩, by decide, by decide, by decide⟩

theorem witness_CkverifyComparesTheTrailer :
    (let s : State := completed response .ok;
      s.seq = .idle ∧ s.done = true ∧ 10 ≤ s.rxcnt.toNat ∧ s.rxbuf.slice 0 10 = some response ∧
        response[10 - 1]? = some 0xF2) ∧
    (let s : State := completed response .ok;
      2 ≤ s.rxcnt.toNat ∧ s.rxbuf.slice 0 2 = some [0x3B, 0x07] ∧ ([0x3B, 0x07] : List Byte)[2 - 1]? = some 0x07) ∧
    (¬(2 ≤ 1 ∧ 1 ≤ (completed response .ok).rxcnt.toNat) ∧ ¬(11 ≤ (completed response .ok).rxcnt.toNat) ∧
      ready.done = false ∧ writing.seq ≠ .idle) ∧
    (2 ≤ (checking response).rxlen.toNat ∧ (after (exec .check (checking response)) (·.done)).isSome) := by decide

/-- The longest payload is that of V18. -/
theorem witness_EncodeBuildsTheFrame :
    ready.seq = .idle ∧ ([] : List Byte).length ≤ 252 ∧ (List.replicate 252 (0x00 : Byte)).length ≤ 252 :=
  ⟨rfl, by decide, by rw [List.length_replicate]⟩

/-- V19, V20. -/
theorem witness_EncodeRefusals :
    writing.seq ≠ .idle ∧ ready.seq = .idle ∧ 252 < (List.replicate 253 (0x00 : Byte)).length :=
  ⟨by decide, rfl, by rw [List.length_replicate]; decide⟩

theorem witness_RawAccessToTheCommandSide :
    (ready.seq = .idle ∧ 257 ≤ 257 ∧ ¬(ready.seq = .idle ∧ 258 ≤ 257) ∧ ¬(writing.seq = .idle)) ∧
      ready.txbuf.read 5 = some 0xFC ∧ ready.txbuf.read 6 = none ∧
        csrValue ready 10 = some 101 ∧ 11 ≤ (11 : Word16).toNat := by decide

/-- The register write: idle and busy, a read-only register on each side of the lengths, the last and the first number
without a register. -/
theorem witness_RawAccessToTheCommandSide_regWrite :
    ({ ready with schedule := [.regWrite 2 0xFE06] }.schedule = .regWrite 2 0xFE06 :: [] ∧ ready.seq = .idle) ∧
      ({ writing with schedule := [.regWrite 3 7] }.schedule = .regWrite 3 7 :: [] ∧ writing.seq ≠ .idle) ∧
        ((1 : Word16) ≠ 2 ∧ (1 : Word16) ≠ 3 ∧ (4 : Word16) ≠ 3 ∧ (10 : Word16).toNat ≤ 10) ∧
          11 ≤ (11 : Word16).toNat ∧ 11 ≤ (0xFFFF : Word16).toNat := by decide

theorem witness_DecodeReturnsTheFields :
    (let s : State := completed response .ok;
      s.seq = .idle ∧ s.done = true ∧ s.result = .ok ∧ 6 ≤ s.rxlen.toNat ∧ s.rxlen.toNat ≤ s.rxcnt.toNat ∧
        s.rxbuf.slice 0 s.rxlen.toNat = some response) ∧
    (let s : State := { completed [0x3B, 0x03, 0x02, 0x01, 0xFE, 0xFC] .ok with rxlen := 6, rxcnt := 6 };
      6 ≤ s.rxlen.toNat ∧ s.rxlen.toNat ≤ s.rxcnt.toNat ∧
        s.rxbuf.slice 0 s.rxlen.toNat = some [0x3B, 0x03, 0x02, 0x01, 0xFE, 0xFC]) ∧
    ¬(6 ≤ { completed response .ok with rxlen := 5 }.rxlen.toNat) ∧
      (completed corrupted .failChecksum).result ≠ .ok := by decide

theorem witness_RxrdReturnsReceivedBytes :
    (let s : State := completed corrupted .failChecksum;
      s.seq = .idle ∧ s.done = true ∧ 9 < s.rxcnt.toNat ∧ s.rxbuf.read 9 = some 0xF2 ∧ ¬(10 < s.rxcnt.toNat)) ∧
      ready.done = false := by decide

/-- The shortest and the longest lengths a START takes. -/
def longest : State :=
  { ready with txlen := 258, rxlen := 258, txbuf := Memory.writeList [] 0 (List.replicate 258 0xAA) }

theorem witness_StartAccepted :
    (let s : State := { ready with txlen := 1, rxlen := 2 };
      s.seq = .idle ∧ s.chanOpen = true ∧ 1 ≤ s.txlen.toNat ∧ s.txlen.toNat ≤ 258 ∧ 2 ≤ s.rxlen.toNat ∧
        s.rxlen.toNat ≤ 258 ∧ s.txbuf.slice 0 s.txlen.toNat = some [0x3B]) ∧
    (longest.txlen.toNat = 258 ∧ longest.rxlen.toNat = 258 ∧
      longest.txbuf.slice 0 258 = some (List.replicate 258 0xAA)) ∧
    { ready with txlen := 7 }.txbuf.slice 0 { ready with txlen := 7 }.txlen.toNat = none := by
  refine ⟨by decide, ⟨rfl, rfl, by dsimp only [longest]; exact slice_filled 258 0 0xAA⟩, by decide⟩

/-- Each condition failing alone, on both sides of its bound. -/
theorem witness_StartFailsAtOnce :
    legalLengths { ready with txlen := 0 } = false ∧ legalLengths { ready with txlen := 259 } = false ∧
      legalLengths { ready with rxlen := 1 } = false ∧ legalLengths { ready with rxlen := 259 } = false ∧
        State.reset.chanOpen = false ∧ ready.seq = .idle := by decide

theorem witness_StartWhileBusyChangesNothing : reading.seq ≠ .idle := by decide

theorem witness_TxAcceptCountsTheByte :
    let s : State := { writing with txidx := 4 };
    s.seq = .write ∧ s.txidx.toNat + 1 < s.txlen.toNat ∧ s.txbuf.read s.txidx.toNat = some 0xFE := by decide

theorem witness_LastAcceptBeginsTheRead :
    let s : State := { writing with txidx := 5 };
    s.seq = .write ∧ s.txidx.toNat + 1 = s.txlen.toNat ∧ s.txbuf.read s.txidx.toNat = some 0xFC := by decide

theorem witness_TxErrorEndsTheAttempt :
    (writing.seq = .write ∧ writing.rxbuf.slice 0 writing.rxcnt.toNat = some [] ∧
      { writing with attempt := 2 }.attempt.toNat < 3) ∧ { writing with attempt := 3 }.attempt.toNat = 3 := by decide

/-- The first cell and the last. -/
theorem witness_RxByteIsStored :
    reading.seq = .read ∧ reading.rxcnt.toNat = 0 ∧ { reading with rxcnt := 257 }.rxcnt.toNat ≤ 257 := by decide

theorem witness_RxErrorEndsTheAttempt :
    (reading.seq = .read ∧ reading.rxbuf.slice 0 reading.rxcnt.toNat = some [] ∧
      { reading with attempt := 2 }.attempt.toNat < 3) ∧ { reading with attempt := 3 }.attempt.toNat = 3 := by decide

theorem witness_TickInReadCountsOrTimesOut :
    (reading.seq = .read ∧ 1 < { reading with timer := 2 }.timer.toNat) ∧
      (reading.timer.toNat ≤ 1 ∧ reading.rxbuf.slice 0 reading.rxcnt.toNat = some []) ∧
        { reading with attempt := 2 }.attempt.toNat < 3 ∧ { reading with attempt := 3 }.attempt.toNat = 3 := by decide

theorem witness_TickInDelayCountsOrBegins :
    (delaying.seq = .delay ∧ 1 < { delaying with timer := 2 }.timer.toNat) ∧
      { delaying with timer := 1 }.timer.toNat ≤ 1 ∧
        delaying.txbuf.slice 0 delaying.txlen.toNat = some command := by decide

theorem witness_CheckDecidesByTheTrailer :
    (let s : State := checking response;
      s.seq = .check ∧ s.rxcnt = s.rxlen ∧ 2 ≤ s.rxlen.toNat ∧ s.rxbuf.slice 0 s.rxlen.toNat = some response) ∧
    (let s : State := { checking [0x55, 0x00] with rxlen := 2, rxcnt := 2 };
      s.seq = .check ∧ s.rxcnt = s.rxlen ∧ 2 ≤ s.rxlen.toNat ∧
        s.rxbuf.slice 0 s.rxlen.toNat = some [0x55, 0x00]) := by decide

theorem witness_DisabledEventsAreNoStep :
    writing.seq = .write ∧ reading.seq ≠ .write ∧ writing.seq ≠ .read ∧ reading.seq ≠ .check := by decide

theorem witness_SessionRequestStartsItsFrame :
    ready.seq = .idle ∧ ready.chanOpen = true ∧
      (Instr.numHeaters = .numHeaters ∧ Config.cmdNumHeaters = Config.cmdNumHeaters ∧
        Config.respLenNumHeaters = Config.respLenNumHeaters) := ⟨rfl, rfl, rfl, rfl, rfl⟩

theorem witness_SessionRequestTurnedAway :
    (Instr.getVersion = .getVersion ∧ Config.cmdGetVersion = Config.cmdGetVersion ∧ 10 = 10) ∧
      State.reset.seq = .idle ∧ State.reset.chanOpen = false ∧ writing.seq ≠ .idle :=
  ⟨⟨rfl, rfl, rfl⟩, rfl, rfl, by decide⟩

theorem witness_VersionIsReadByOffset :
    (let s : State := completed response .ok;
      s.seq = .idle ∧ s.done = true ∧ s.result = .ok ∧ 9 ≤ s.rxcnt.toNat ∧ s.rxbuf.read 5 = some 1 ∧
        s.rxbuf.read 6 = some 0 ∧ s.rxbuf.read 7 = some 0 ∧ s.rxbuf.read 8 = some 5) ∧
      { completed response .ok with rxcnt := 9 }.rxcnt.toNat = 9 ∧
        { completed response .ok with rxcnt := 8 }.rxcnt.toNat < 9 ∧
        (completed corrupted .failChecksum).result ≠ .ok ∧ ready.done = false := by decide

theorem witness_HeaterCountIsReadByOffset :
    (let s : State := { completed response .ok with rxcnt := 5 };
      s.seq = .idle ∧ s.done = true ∧ s.result = .ok ∧ 5 ≤ s.rxcnt.toNat ∧ s.rxbuf.read 4 = some 0xFE) ∧
      { completed response .ok with rxcnt := 4 }.rxcnt.toNat < 5 ∧
        (completed corrupted .failChecksum).result ≠ .ok ∧ writing.seq ≠ .idle := by decide

theorem witness_StubsTouchNothing :
    Instr.forceReboot = .setPwm 0 true 1 1 ∨ Instr.forceReboot = .forceReboot ∨ Instr.forceReboot = .forceReset ∨
      Instr.forceReboot = .readVersion ∨ Instr.forceReboot = .readReport := .inr (.inl rfl)

theorem witness_StepRunsTheNextEvent :
    ({ writing with schedule := [.txAccept, .tick] }.schedule = .txAccept :: [.tick] ∧
      decodeEvent ⟨writing.seq, decide (writing.txidx.toNat + 1 = writing.txlen.toNat)⟩ .txAccept = .ok .txAccept) ∧
      ((checking response).schedule = [] ∧ (checking response).seq = .check) ∧
        (writing.schedule = [] ∧ writing.seq ≠ .check) := ⟨⟨rfl, rfl⟩, ⟨rfl, rfl⟩, rfl, by decide⟩

theorem witness_ResetIsTakenInEveryState : { reading with schedule := [.reset] }.schedule = .reset :: [] := rfl

theorem witness_ChannelLevelIsAnInput :
    { reading with schedule := [.chanOpen false] }.schedule = .chanOpen false :: [] := rfl

theorem witness_ChanOpenIsSampledOnlyByStart : opensTransaction .ckfill = false := rfl

theorem witness_BuffersChangeOnlyByTheirOwner :
    let s : State := { writing with schedule := [.txAccept] };
    nextIsReset s = false ∧ (∃ t, step s = .next t) ∧ s.seq ≠ .idle ∧ s.seq ≠ .read :=
  ⟨by decide, ⟨_, rfl⟩, by decide, by decide⟩

theorem witness_DoneMovesOnlyAtItsEvents :
    (∃ t, step (checking response) = .next t ∧ (checking response).done = false ∧ t.done = true) ∧
      ∃ t, step { completed response .ok with schedule := [.host [0x02]] } = .next t ∧
        (completed response .ok).done = true ∧ t.done = false := ⟨⟨_, rfl, rfl, rfl⟩, ⟨_, rfl, rfl, rfl⟩⟩

theorem witness_OnlyTheChannelEndsAWrite :
    ∃ t, step { writing with schedule := [.txAccept] } = .next t ∧ writing.seq = .write ∧
      (t.seq ≠ .write ∨ t.txidx ≠ writing.txidx) := ⟨_, rfl, rfl, .inr (by decide)⟩

theorem witness_WireTakesOnlyThePresentedByte :
    ∃ t, step { writing with schedule := [.txAccept] } = .next t ∧ t.wire = [0x3B] := ⟨_, rfl, rfl⟩

theorem witness_StepKeepsBuffersCanonical :
    BuffersWf reading ∧ ∃ t, step { reading with schedule := [.rxByte 0x3B] } = .next t :=
  ⟨inv_reading.buffers, _, rfl⟩

/-- The invariants hold in states of every phase, and steps are taken there. -/
theorem witness_StepKeepsTheInvariant :
    (Inv ready ∧ Inv writing ∧ Inv reading ∧ Inv (checking response) ∧ Inv delaying) ∧
      ∃ t, step (checking response) = .next t :=
  ⟨⟨inv_ready, inv_writing, inv_reading, inv_checking, inv_delaying⟩, _, rfl⟩

theorem witness_EngineAccessesAreInRange : Inv reading := inv_reading

theorem witness_EveryPhaseHasAStep :
    (Inv writing ∧ writing.seq = .write) ∧ (Inv reading ∧ reading.seq = .read) ∧
      (Inv (checking response) ∧ (checking response).seq = .check) ∧ (Inv delaying ∧ delaying.seq = .delay) :=
  ⟨⟨inv_writing, rfl⟩, ⟨inv_reading, rfl⟩, ⟨inv_checking, rfl⟩, inv_delaying, rfl⟩

theorem witness_TraceAlternates :
    (ready.seq = .idle ∧ ∃ t, exec .start ready = .next t ∧ t.seq = .write) ∧
      Inv delaying ∧ delaying.seq ≠ .idle ∧ delaying.txbuf.slice 0 delaying.txlen.toNat = some command ∧
        TraceSince [] command delaying ∧ nextIsReset delaying = false ∧
          ∃ t, step { delaying with schedule := [.tick] } = .next t :=
  ⟨⟨rfl, _, rfl, rfl⟩, inv_delaying, by decide, by decide,
    ⟨[.tx 1 command, .rx 1 []], rfl, Rounds.succ [] Rounds.zero⟩, by decide, _, rfl⟩

theorem witness_TicksOfATransactionAreBounded :
    Inv ready ∧ ready.seq = .idle ∧ ∃ t, exec .start ready = .next t ∧ t.seq = .write :=
  ⟨inv_ready, rfl, _, rfl, rfl⟩

/-- The invariants do not speak of the schedule. -/
theorem inv_schedule {s : State} (h : Inv s) (q : List Event) : Inv { s with schedule := q } :=
  ⟨h.buffers, h.counted, h.inFlight, h.writing, h.reading, h.checking, h.delaying, h.streamed, h.verdict,
    h.transport, h.protocol, h.checksum⟩

/-- A response with no tick in it: the fewest. -/
theorem witness_AnsweredAttemptEndsByTheTrailer :
    let s : State := { writing with schedule := accepts 6 ++ (delivers response ++ .check :: []) };
    Inv s ∧ s.seq = .write ∧ s.txidx = 0#9 ∧ s.txbuf.slice 0 s.txlen.toNat = some command ∧
      response.length = s.rxlen.toNat ∧ 0 < Config.tRd.toNat ∧ Merged (delivers response) 0 (delivers response) ∧
        s.schedule = accepts s.txlen.toNat ++ (delivers response ++ .check :: []) :=
  ⟨inv_schedule inv_writing _, rfl, rfl, by decide, rfl, Config.one_le_tRd, .all_events _, rfl⟩

/-- The most ticks there may be, `T_RD - 1`, between the first byte and the others. -/
theorem witness_AnsweredAttemptEndsByTheTrailer_most :
    let q : List Event := .rxByte 0x3B :: (ticks (Config.tRd.toNat - 1) ++ delivers response.tail);
    let s : State := { writing with schedule := accepts 6 ++ (q ++ .check :: []) };
    Inv s ∧ s.schedule = accepts s.txlen.toNat ++ (q ++ .check :: []) ∧ Config.tRd.toNat - 1 < Config.tRd.toNat ∧
      Merged (delivers response) (Config.tRd.toNat - 1) q :=
  ⟨inv_schedule inv_writing _, rfl, Nat.sub_lt Config.one_le_tRd Nat.one_pos, .event _ (.ticks_then _ _)⟩

/-- Nothing received. -/
theorem witness_UnansweredAttemptTimesOut :
    let q := ticks (Config.tRd.toNat - 1)
    let s : State := { writing with schedule := accepts 6 ++ (q ++ .tick :: []) };
    Inv s ∧ s.seq = .write ∧ s.txidx = 0#9 ∧ s.txbuf.slice 0 s.txlen.toNat = some command ∧
      ([] : List Byte).length < s.rxlen.toNat ∧ Merged (delivers []) (Config.tRd.toNat - 1) q ∧
        s.schedule = accepts s.txlen.toNat ++ (q ++ .tick :: []) ∧ s.attempt.toNat < 3 :=
  ⟨inv_schedule inv_writing _, rfl, rfl, by decide, by decide, (List.append_nil (ticks _)) ▸ .ticks_then _ [], rfl,
    by decide⟩

/-- One byte short (V43): nine bytes, the last of them after `T_RD - 1` ticks, at attempt 3. -/
theorem witness_UnansweredAttemptTimesOut_short :
    let q : List Event := delivers (response.take 8) ++ (ticks (Config.tRd.toNat - 1) ++ delivers [0x05]);
    let s : State := { writing with attempt := 3, schedule := accepts 6 ++ (q ++ .tick :: []) };
    Inv s ∧ s.schedule = accepts s.txlen.toNat ++ (q ++ .tick :: []) ∧ (response.take 9).length < s.rxlen.toNat ∧
      Merged (delivers (response.take 9)) (Config.tRd.toNat - 1) q ∧ s.attempt.toNat = 3 :=
  ⟨inv_schedule inv_writing_last _, rfl, by decide,
    .after_events (delivers (response.take 8)) (.ticks_then _ (delivers [0x05])), rfl⟩

theorem witness_DelayLastsItsTicks :
    let s : State := { delaying with schedule := ticks Config.tDly.toNat ++ [] };
    Inv s ∧ s.seq = .delay ∧ s.timer = Config.tDly ∧ s.txbuf.slice 0 s.txlen.toNat = some command ∧
      s.schedule = ticks Config.tDly.toNat ++ [] :=
  ⟨inv_schedule inv_delaying _, rfl, rfl, by decide, rfl⟩

theorem witness_SilentDeviceFailsAfterThreeAttempts :
    let q := accepts 6 ++ (ticks Config.tRd.toNat ++ (ticks Config.tDly.toNat ++
      (accepts 6 ++ (ticks Config.tRd.toNat ++ (ticks Config.tDly.toNat ++
        (accepts 6 ++ (ticks Config.tRd.toNat ++ [])))))))
    let s : State := { writing with schedule := q };
    Inv s ∧ s.seq = .write ∧ s.attempt = 1#2 ∧ s.txidx = 0#9 ∧
      s.txbuf.slice 0 s.txlen.toNat = some command ∧ s.txlen.toNat = 6 ∧ s.schedule = q :=
  ⟨inv_schedule inv_writing _, rfl, rfl, rfl, by decide, rfl, rfl⟩

end Sys2Proof.Tests
end

/-! ## Scope: what one step takes off the schedule (`spec/00_scope.md` R7, R15) -/

namespace Sys2Proof

/-- R104 lists the host operations 0 to 10, so no row of the decoder's table answers a number from 11 on. -/
theorem decodeOperands_unused {op : Byte} (hop : 11 ≤ op.toNat) (args : List Byte) :
    decodeOperands op args = .error (.noSuchOperation op) := by
  unfold decodeOperands
  split
  case h_12 => rfl
  all_goals omega

theorem decodeEvent_unused {op : Byte} (hop : 11 ≤ op.toNat) (ctx : RowContext) (args : List Byte) :
    decodeEvent ctx (.host (op :: args)) = .error (.noSuchOperation op) := by
  simp only [decodeEvent, decodeHost, decodeOperands_unused hop]

end Sys2Proof

namespace Sys2Proof.Machine

/-- Settles O5: the word decodes to no operation, and what decodes to no operation is refused in the state with the
event taken off. -/
theorem unusedOperationNumberChangesNothing : Obligations.UnusedOperationNumberChangesNothing := by
  intro s op args rest hop hq
  have hd : decodeEvent (rowContext s) (.host (op :: args)) = .error (.noSuchOperation op) :=
    decodeEvent_unused hop _ args
  exact step_undecoded hq rfl hd

/-- Settles O40: a decoded event is run by `step_run`; the two answers with nothing scheduled are the branches of
`step_nil`. -/
theorem stepRunsTheNextEvent : Obligations.StepRunsTheNextEvent := by
  refine ⟨?scheduled, ?ownCheck, ?noStep⟩
  case scheduled => exact fun _ _ _ _ hq hd => step_run hq hd
  case ownCheck => exact fun _ hq hc => (step_nil hq).trans (if_pos hc)
  case noStep => exact fun _ hq hc => (step_nil hq).trans (if_neg hc)

end Sys2Proof.Machine

/-! ## State: what one step can do (`spec/10_state.md`, `spec/42_transaction.md`) -/

namespace Sys2Proof.Machine

/-- `Prepared s u`: what the idle host can make of `s` before a START (R43, R120, R122, R143): another command,
other lengths, and a buffer that is still canonical. -/
inductive Prepared (s : State) : State → Prop where
  | mk (m : Memory) (x y : Len) (r : HostReturn) (idle : s.seq = .idle) (wf : s.txbuf.wf = true → m.wf = true) :
      Prepared s { s with txbuf := m, txlen := x, rxlen := y, ret := r }

/-- `Effect s t`: everything a step other than reset can make of `s`, once its event is off the schedule. -/
inductive Effect (s : State) : State → Prop where
  /-- No register and no buffer of the block moves. -/
  | outside (level : Bool) (x : Session) (r : HostReturn) : Effect s { s with chanOpen := level, session := x, ret := r }
  /-- The idle host writes the command side. -/
  | prepared {u : State} (prep : Prepared s u) : Effect s u
  /-- A START fails at once (R164). -/
  | startFailed {u : State} {c : Cause} (prep : Prepared s u) (cause : c = .badParam ∨ c = .notOpen) :
      Effect s ((u.startFailed c).returning .performed)
  /-- A START is accepted (R163). -/
  | started {u : State} {bytes : List Byte} (prep : Prepared s u) (legal : legalLengths u = true)
      (command : u.txbuf.slice 0 u.txlen.toNat = some bytes) :
      Effect s ((u.accepted.begun bytes).returning .performed)
  /-- A byte that is not the last is sent (R167). -/
  | sent (b : Byte) (seq : s.seq = .write) (more : s.txidx.toNat + 1 < s.txlen.toNat) : Effect s (s.sent b)
  /-- The last byte is sent (R168). -/
  | sentLast (b : Byte) (seq : s.seq = .write) (last : s.txidx.toNat + 1 = s.txlen.toNat) :
      Effect s (s.sent b).enterRead
  /-- A response byte is stored (R170). -/
  | received (b : Byte) (seq : s.seq = .read) (cell : s.rxcnt.toNat < 258) : Effect s (s.received b)
  /-- A tick is counted that is not the last (R172, R173). -/
  | ticked (seq : s.seq = .read ∨ s.seq = .delay) (more : 1 < s.timer.toNat) : Effect s (s.putTimer (s.timer - 1#16))
  /-- The attempt fails: a write error, a read error, a timeout (R169, R171, R172). -/
  | failed {c : Cause} {bytes : List Byte} (e : ChanErr) (n : Word16) (seq : s.seq = .write ∨ s.seq = .read)
      (cause : c = .writeErr ∨ c = .readErr ∨ c = .timeout)
      (counted : s.rxbuf.slice 0 s.rxcnt.toNat = some bytes) :
      Effect s (((s.putErrcode e).putTimer n).attemptFailed c bytes)
  /-- The delay is over: the next attempt begins (R173). -/
  | begun {bytes : List Byte} (seq : s.seq = .delay) (command : s.txbuf.slice 0 s.txlen.toNat = some bytes) :
      Effect s ((s.putTimer 0#16).begun bytes)
  /-- The response is checked and the transaction completes (R174). -/
  | checked {f : List Byte} (seq : s.seq = .check) (full : s.rxcnt = s.rxlen) :
      Effect s ((s.checked f).complete (checkVerdict f))

/-! ### Each meaning has one of these effects -/

theorem Prepared.refl {s : State} (h : s.seq = .idle) : Prepared s s := .mk s.txbuf s.txlen s.rxlen s.ret h id

theorem Effect.refl (s : State) : Effect s s := .outside s.chanOpen s.session s.ret

theorem Effect.returning (s : State) (r : HostReturn) : Effect s (s.returning r) := .outside s.chanOpen s.session r

theorem Effect.refusing (s : State) (r : RefuseReason) : Effect s (s.refusing r) := .returning s (.refused r)

/-- A meaning that only answers has no other effect. -/
theorem Effect.of_returning {a : Answer} {s t : State} (ha : ∃ r, a = .next (s.returning r)) (h : a = .next t) :
    Effect s t := by
  obtain ⟨r, rfl⟩ := ha
  cases h
  exact .returning s r

theorem execEncode_effect {src dst cmd : Byte} {p : List Byte} {s t : State}
    (h : execEncode src dst cmd p s = .next t) : Effect s t := by
  rcases execEncode_eq_next.1 h with ⟨_, rfl⟩ | ⟨_, _, rfl⟩ | ⟨hidle, hp, rfl⟩
  · exact .refusing s _
  · exact .refusing s _
  · have hfit : 0 + (frameTemplate src dst cmd p).length ≤ Config.bufCap := by
      rw [frameTemplate_length, Config.bufCap]; omega
    exact .prepared (.mk _ _ s.rxlen _ hidle fun hw => Memory.wf_writeList _ _ 0 hw hfit)

theorem execTxwr_effect {i : Nat} {v : Byte} {s t : State} (h : execTxwr i v s = .next t) : Effect s t := by
  rcases execTxwr_eq_next.1 h with ⟨_, rfl⟩ | ⟨_, _, rfl⟩ | ⟨hidle, hi, rfl⟩
  · exact .refusing s _
  · exact .refusing s _
  · exact .prepared (.mk _ s.txlen s.rxlen _ hidle fun hw => Memory.wf_write _ i v hw hi)

theorem execCkfill_effect {s t : State} (h : execCkfill s = .next t) : Effect s t := by
  rcases execCkfill_eq_next.1 h with ⟨_, rfl⟩ | ⟨_, _, rfl⟩ | ⟨_, hidle, _, hlen, _, rfl⟩
  · exact .refusing s _
  · exact .refusing s _
  · have hcell : s.txlen.toNat - 1 < Config.bufCap := by rw [Config.bufCap]; omega
    exact .prepared (.mk _ s.txlen s.rxlen _ hidle fun hw => Memory.wf_write _ _ _ hw hcell)

theorem execSettxlen_effect {n : Word16} {s t : State} (h : execSettxlen n s = .next t) : Effect s t := by
  rcases execSettxlen_eq_next.1 h with ⟨_, rfl⟩ | ⟨hidle, rfl⟩
  · exact .refusing s _
  · exact .prepared (.mk s.txbuf _ s.rxlen _ hidle id)

theorem execSetrxlen_effect {n : Word16} {s t : State} (h : execSetrxlen n s = .next t) : Effect s t := by
  rcases execSetrxlen_eq_next.1 h with ⟨_, rfl⟩ | ⟨hidle, rfl⟩
  · exact .refusing s _
  · exact .prepared (.mk s.txbuf s.txlen _ _ hidle id)

theorem writeRegister_effect (s : State) (n v : Word16) : Effect s (s.writeRegister n v) := by
  rcases writeRegister_cases s n v with ⟨_, h⟩ | ⟨_, h⟩ | ⟨r, h⟩
  · exact execSettxlen_effect h
  · exact execSetrxlen_effect h
  · exact h ▸ .refusing s r

/-- A START run by the idle host in whatever it has prepared. -/
theorem execStart_effect_of_prepared {s u t : State} (prep : Prepared s u) (h : execStart u = .next t) :
    Effect s t := by
  rcases execStart_eq_next.1 h with
    ⟨hbusy, _⟩ | ⟨_, _, rfl⟩ | ⟨_, _, _, rfl⟩ | ⟨bytes, _, _, legal, command, rfl⟩
  · obtain ⟨m, x, y, r, hidle, _⟩ := prep
    exact absurd hidle hbusy
  · exact .startFailed prep (.inr rfl)
  · exact .startFailed prep (.inl rfl)
  · exact .started prep legal command

theorem execStart_effect {s t : State} (h : execStart s = .next t) : Effect s t := by
  by_cases hidle : s.seq = .idle
  · exact execStart_effect_of_prepared (.refl hidle) h
  · cases h.symm.trans (execStart_eq_next.2 (.inl ⟨hidle, rfl⟩))
    exact .refusing s _

theorem issueRequest_effect {cmd : Byte} {n : Nat} {s t : State} (h : issueRequest cmd n s = .next t) :
    Effect s t := by
  by_cases hidle : s.seq = .idle
  · obtain ⟨m, _, hwf, hreq⟩ := issueRequest_idle cmd n s hidle
    exact execStart_effect_of_prepared (.mk m _ _ _ hidle hwf) (hreq ▸ h)
  · cases h.symm.trans (issueRequest_busy cmd n s hidle)
    exact .refusing s _

theorem execVersionResp_effect {s t : State} (h : execVersionResp s = .next t) : Effect s t := by
  rcases execVersionResp_next s with ha | ⟨v, _, hv⟩
  · exact .of_returning ha h
  · cases h.symm.trans hv
    exact .outside s.chanOpen _ _

theorem execNumHeatersResp_effect {s t : State} (h : execNumHeatersResp s = .next t) : Effect s t := by
  rcases execNumHeatersResp_next s with ha | ⟨n, _, hn⟩
  · exact .of_returning ha h
  · cases h.symm.trans hn
    exact .outside s.chanOpen _ _

theorem execTickRead_effect {s t : State} (h : execTickRead s = .next t) : Effect s t := by
  rcases execTickRead_eq_next.1 h with ⟨hseq, hmore, rfl⟩ | ⟨bytes, hseq, _, hbytes, rfl⟩
  · exact .ticked (.inl hseq) hmore
  · exact .failed s.errcode _ (.inr hseq) (.inr (.inr rfl)) hbytes

theorem execTickDelay_effect {s t : State} (h : execTickDelay s = .next t) : Effect s t := by
  rcases execTickDelay_eq_next.1 h with ⟨hseq, hmore, rfl⟩ | ⟨bytes, hseq, _, hbytes, rfl⟩
  · exact .ticked (.inr hseq) hmore
  · exact .begun hseq hbytes

/-- Every next state an instruction answers is one of the effects. -/
theorem exec_effect {i : Instr} {s t : State} (h : exec i s = .next t) : Effect s t := by
  cases i with
  | getVersion => exact issueRequest_effect h
  | numHeaters => exact issueRequest_effect h
  | forceReboot => exact .of_returning ⟨.unsupported, rfl⟩ h
  | forceReset => exact .of_returning ⟨.unsupported, rfl⟩ h
  | setPwm => exact .of_returning ⟨.unsupported, rfl⟩ h
  | versionResp => exact execVersionResp_effect h
  | numHeatersResp => exact execNumHeatersResp_effect h
  | encode => exact execEncode_effect h
  | ckfill => exact execCkfill_effect h
  | start => exact execStart_effect h
  | decode => exact .of_returning (execDecode_next s) h
  | ckverify n => exact .of_returning (execCkverify_next n s) h
  | txwr => exact execTxwr_effect h
  | txrd j => exact .of_returning (execTxrd_next j s) h
  | rxrd j => exact .of_returning (execRxrd_next j s) h
  | settxlen => exact execSettxlen_effect h
  | setrxlen => exact execSetrxlen_effect h
  | csrrd n => exact .of_returning (execCsrrd_next n s) h
  | txAccept =>
    obtain ⟨b, hseq, hmore, _, rfl⟩ := execTxAccept_eq_next.1 h
    exact .sent b hseq hmore
  | txAcceptLast =>
    obtain ⟨b, hseq, hlast, _, rfl⟩ := execTxAcceptLast_eq_next.1 h
    exact .sentLast b hseq hlast
  | txError e =>
    obtain ⟨bytes, hseq, hbytes, rfl⟩ := execTxError_eq_next.1 h
    exact .failed e s.timer (.inl hseq) (.inl rfl) hbytes
  | rxByte b =>
    obtain ⟨hseq, hcell, rfl⟩ := execRxByte_eq_next.1 h
    exact .received b hseq hcell
  | rxError e =>
    obtain ⟨bytes, hseq, hbytes, rfl⟩ := execRxError_eq_next.1 h
    exact .failed e s.timer (.inr hseq) (.inr (.inl rfl)) hbytes
  | tickRead => exact execTickRead_effect h
  | tickDelay => exact execTickDelay_effect h
  | check =>
    obtain ⟨f, hseq, hfull, _, rfl⟩ := execCheck_eq_next.1 h
    exact .checked hseq hfull
  | tickIdle =>
    obtain ⟨_, _, rfl⟩ := execTickIdle_eq_next.1 h
    exact .refl t
  | readVersion => exact .of_returning ⟨.unsupported, rfl⟩ h
  | readReport => exact .of_returning ⟨.unsupported, rfl⟩ h

/-- Every step that answers is the reset input or one of the effects, in the state with its event taken off. -/
theorem step_effect {s t : State} (h : step s = .next t) :
    (nextIsReset s = true ∧ ∃ rest, t = (s.taking rest).resetBlock) ∨ ∃ rest, Effect (s.taking rest) t := by
  rcases step_eq_next h with
    ⟨_, _, hrun⟩ |
      ⟨e, rest, hq, ⟨i, _, hrun⟩ | ⟨rfl, rfl⟩ | ⟨level, _, rfl⟩ | ⟨op, _, rfl⟩ | ⟨n, v, _, rfl⟩⟩
  · exact .inr ⟨s.schedule, exec_effect hrun⟩
  · exact .inr ⟨rest, exec_effect hrun⟩
  · exact .inl ⟨by simp [nextIsReset, hq], rest, rfl⟩
  · exact .inr ⟨rest, .outside level _ s.ret⟩
  · exact .inr ⟨rest, .refusing _ _⟩
  · exact .inr ⟨rest, writeRegister_effect _ n v⟩

end Sys2Proof.Machine

/-! ## State: who moves the buffers and DONE -/

namespace Sys2Proof.Machine

/-- Every effect keeps the buffers canonical: the host writes below cell 258, and RxByte at `RXCNT` below 258. -/
theorem Effect.buffersWf {s t : State} (h : Effect s t) (hs : BuffersWf s) : BuffersWf t := by
  cases h with
  | outside => exact hs
  | prepared prep => cases prep with | mk m x y r _ wf => exact ⟨wf hs.1, hs.2⟩
  | startFailed prep => cases prep with | mk m x y r _ wf => exact ⟨wf hs.1, hs.2⟩
  | started prep => cases prep with | mk m x y r _ wf => exact ⟨wf hs.1, hs.2⟩
  | sent => exact hs
  | sentLast => exact hs
  | received b _ cell => exact ⟨hs.1, Memory.wf_write _ _ b hs.2 cell⟩
  | ticked => exact hs
  | failed => simpa [BuffersWf] using hs
  | begun => exact hs
  | checked => exact hs

/-- Settles O50: reset empties the buffers, and every other step is an effect, which keeps their form. -/
theorem stepKeepsBuffersCanonical : Obligations.StepKeepsBuffersCanonical := by
  intro s t hs h
  rcases step_effect h with ⟨_, rest, rfl⟩ | ⟨rest, heff⟩
  · exact ⟨Memory.wf_nil, Memory.wf_nil⟩
  · exact heff.buffersWf hs

/-- The command and the lengths change only from `IDLE`. -/
theorem Effect.command_unchanged {s t : State} (h : Effect s t) (hbusy : s.seq ≠ .idle) :
    t.txbuf = s.txbuf ∧ t.txlen = s.txlen ∧ t.rxlen = s.rxlen := by
  have hnone {u : State} (prep : Prepared s u) : False := by
    obtain ⟨m, x, y, r, hidle, _⟩ := prep
    exact hbusy hidle
  cases h with
  | prepared prep => exact (hnone prep).elim
  | startFailed prep => exact (hnone prep).elim
  | started prep => exact (hnone prep).elim
  | failed => simp
  | _ => exact ⟨rfl, rfl, rfl⟩

/-- The response buffer changes only in `READ`. -/
theorem Effect.rxbuf_unchanged {s t : State} (h : Effect s t) (hread : s.seq ≠ .read) : t.rxbuf = s.rxbuf := by
  cases h with
  | prepared prep => cases prep; rfl
  | startFailed prep => cases prep; rfl
  | started prep => cases prep; rfl
  | received _ seq => exact absurd seq hread
  | failed => simp
  | _ => rfl

/-- Settles O46: an effect leaves the command and the lengths alone outside `IDLE`, the response outside `READ`. -/
theorem buffersChangeOnlyByTheirOwner : Obligations.BuffersChangeOnlyByTheirOwner := by
  intro s t hreset h
  rcases step_effect h with ⟨hr, _⟩ | ⟨rest, heff⟩
  · exact absurd hr (by simp [hreset])
  · exact ⟨heff.command_unchanged, heff.rxbuf_unchanged⟩

theorem checkVerdict_ne_none (f : List Byte) : checkVerdict f ≠ .none := by
  unfold checkVerdict; split <;> simp

/-- `DONE` rises with a completion: a START that fails, the third attempt failing, the check. -/
theorem Effect.done_rises {s t : State} (h : Effect s t) (hs : s.done = false) (ht : t.done = true) :
    t.seq = .idle ∧ t.result ≠ .none := by
  have hkept (hd : t.done = s.done) : t.seq = .idle ∧ t.result ≠ .none := by simp [hd, hs] at ht
  cases h with
  | prepared prep => cases prep; exact hkept rfl
  | startFailed => simp
  | started => cases ht
  | failed =>
    by_cases ha : s.attempt.toNat < Config.maxAttempts
    · exact hkept (by simp [ha])
    · simp [ha]
  | checked => exact ⟨rfl, checkVerdict_ne_none _⟩
  | _ => exact hkept rfl

/-- `DONE` falls with an accepted START alone. -/
theorem Effect.done_falls {s t : State} (h : Effect s t) (hs : s.done = true) (ht : t.done = false) :
    s.seq = .idle ∧ t.seq = .write ∧ t.attempt = 1#2 := by
  have hkept (hd : t.done = s.done) : s.seq = .idle ∧ t.seq = .write ∧ t.attempt = 1#2 := by simp [hd, hs] at ht
  cases h with
  | prepared prep => cases prep; exact hkept rfl
  | startFailed => cases ht
  | started prep => cases prep with | mk m x y r idle => exact ⟨idle, rfl, rfl⟩
  | failed =>
    by_cases ha : s.attempt.toNat < Config.maxAttempts
    · exact hkept (by simp [ha])
    · simp [ha] at ht
  | checked => cases ht
  | _ => exact hkept rfl

/-- Settles O47: reset clears `DONE`, and among the effects only completions set it and only an accepted START
clears it. -/
theorem doneMovesOnlyAtItsEvents : Obligations.DoneMovesOnlyAtItsEvents := by
  intro s t h
  rcases step_effect h with ⟨hr, rest, rfl⟩ | ⟨rest, heff⟩
  · exact ⟨fun _ ht => absurd ht Bool.false_ne_true, fun _ _ => .inl hr⟩
  · exact ⟨heff.done_rises, fun hs ht => .inr (heff.done_falls hs ht)⟩

end Sys2Proof.Machine

/-! ## State: the invariants of the registers -/

namespace Sys2Proof.Machine

/-- The clause `inFlight` of `Inv`, named: what holds of the registers while a transaction runs. -/
def InFlight (s : State) : Prop :=
  legalLengths s = true ∧ (∃ bytes, s.txbuf.slice 0 s.txlen.toNat = some bytes) ∧ 1 ≤ s.attempt.toNat ∧
    s.done = false ∧ s.result = .none ∧ s.somOk = false ∧ s.lenOk = false ∧ s.ckOk = false ∧ s.ckCalc = 0#8

theorem Inv.inFlight_of_busy {s : State} (h : Inv s) (hseq : s.seq ≠ .idle) : InFlight s := h.inFlight hseq

theorem InFlight.result_eq_none {s : State} (h : InFlight s) : s.result = .none := by
  obtain ⟨_, _, _, _, hresult, _⟩ := h
  exact hresult

theorem InFlight.one_le_attempt {s : State} (h : InFlight s) : 1 ≤ s.attempt.toNat := by
  obtain ⟨_, _, hattempt, _⟩ := h
  exact hattempt

theorem InFlight.rxlen_le {s : State} (h : InFlight s) : 2 ≤ s.rxlen.toNat ∧ s.rxlen.toNat ≤ 258 := by
  obtain ⟨hlegal, _⟩ := h
  obtain ⟨_, _, hrx⟩ := (legalLengths_eq_true s).1 hlegal
  exact hrx

/-- In flight the clauses about a verdict say nothing, since there is none yet. -/
theorem Inv.of_busy {s : State} (hseq : s.seq ≠ .idle) (hfl : InFlight s) (buffers : BuffersWf s)
    (counted : ∃ bytes, s.rxbuf.slice 0 s.rxcnt.toNat = some bytes)
    (writing : s.seq = .write → s.txidx.toNat < s.txlen.toNat ∧ s.rxcnt = 0#9)
    (reading : s.seq = .read →
      s.txidx = s.txlen ∧ s.rxcnt.toNat < s.rxlen.toNat ∧ 1 ≤ s.timer.toNat ∧ s.timer.toNat ≤ Config.tRd.toNat)
    (checking : s.seq = .check → s.txidx = s.txlen ∧ s.rxcnt = s.rxlen)
    (delaying : s.seq = .delay →
      s.attempt.toNat < 3 ∧ s.cause ≠ .none ∧ 1 ≤ s.timer.toNat ∧ s.timer.toNat ≤ Config.tDly.toNat ∧
        s.txidx.toNat ≤ s.txlen.toNat ∧ s.rxcnt.toNat ≤ s.rxlen.toNat)
    (streamed : s.seq = .read ∨ s.seq = .check →
      ∀ bytes, s.rxbuf.slice 0 s.rxcnt.toNat = some bytes → s.ckAcc = accOf bytes s.rxlen.toNat) : Inv s where
  buffers := buffers
  counted := counted
  inFlight _ := hfl
  writing := writing
  reading := reading
  checking := checking
  delaying := delaying
  streamed := streamed
  verdict h := absurd h hseq
  transport h := nomatch hfl.result_eq_none.symm.trans h
  protocol h := nomatch hfl.result_eq_none.symm.trans h
  checksum h := by simp [hfl.result_eq_none] at h

/-- In `WRITE` nothing is counted. -/
theorem Inv.of_write {s : State} (hseq : s.seq = .write) (hfl : InFlight s) (buffers : BuffersWf s)
    (hidx : s.txidx.toNat < s.txlen.toNat) (hcnt : s.rxcnt = 0#9) : Inv s :=
  .of_busy (by simp [hseq]) hfl buffers ⟨[], by simp [hcnt]⟩ (fun _ => ⟨hidx, hcnt⟩) (by simp [hseq])
    (by simp [hseq]) (by simp [hseq]) (by simp [hseq])

theorem Inv.of_read {s : State} {bytes : List Byte} (hseq : s.seq = .read) (hfl : InFlight s) (buffers : BuffersWf s)
    (hbytes : s.rxbuf.slice 0 s.rxcnt.toNat = some bytes) (hacc : s.ckAcc = accOf bytes s.rxlen.toNat)
    (hidx : s.txidx = s.txlen) (hcnt : s.rxcnt.toNat < s.rxlen.toNat)
    (htimer : 1 ≤ s.timer.toNat ∧ s.timer.toNat ≤ Config.tRd.toNat) : Inv s :=
  .of_busy (by simp [hseq]) hfl buffers ⟨bytes, hbytes⟩ (by simp [hseq]) (fun _ => ⟨hidx, hcnt, htimer⟩)
    (by simp [hseq]) (by simp [hseq]) fun _ f hf => Option.some.inj (hbytes.symm.trans hf) ▸ hacc

theorem Inv.of_check {s : State} {bytes : List Byte} (hseq : s.seq = .check) (hfl : InFlight s)
    (buffers : BuffersWf s) (hbytes : s.rxbuf.slice 0 s.rxcnt.toNat = some bytes)
    (hacc : s.ckAcc = accOf bytes s.rxlen.toNat) (hidx : s.txidx = s.txlen) (hcnt : s.rxcnt = s.rxlen) : Inv s :=
  .of_busy (by simp [hseq]) hfl buffers ⟨bytes, hbytes⟩ (by simp [hseq]) (by simp [hseq]) (fun _ => ⟨hidx, hcnt⟩)
    (by simp [hseq]) fun _ f hf => Option.some.inj (hbytes.symm.trans hf) ▸ hacc

/-- In `IDLE` the clauses about the running transaction say nothing. -/
theorem Inv.of_idle {s : State} (hseq : s.seq = .idle) (buffers : BuffersWf s)
    (counted : ∃ bytes, s.rxbuf.slice 0 s.rxcnt.toNat = some bytes)
    (verdict : s.done = true ↔ s.result ≠ .none)
    (transport : s.result = .failTransport →
      s.attempt.toNat = 3 ∧ (s.cause = .writeErr ∨ s.cause = .readErr ∨ s.cause = .timeout))
    (protocol : s.result = .failProtocol →
      s.attempt = 0#2 ∧ s.rxcnt = 0#9 ∧ (s.cause = .badParam ∨ s.cause = .notOpen))
    (checksum : s.result = .ok ∨ s.result = .failChecksum →
      1 ≤ s.attempt.toNat ∧ (s.ckOk = true ↔ s.result = .ok)) : Inv s where
  buffers := buffers
  counted := counted
  inFlight h := absurd hseq h
  writing h := nomatch hseq.symm.trans h
  reading h := nomatch hseq.symm.trans h
  checking h := nomatch hseq.symm.trans h
  delaying h := nomatch hseq.symm.trans h
  streamed h := by simp [hseq] at h
  verdict _ := verdict
  transport := transport
  protocol := protocol
  checksum := checksum

/-- The invariants read no input, no output and nothing of the session. -/
theorem Inv.outside {s : State} (h : Inv s) (level : Bool) (w : List Byte) (x : Session) (r : HostReturn)
    (q : List Event) : Inv { s with chanOpen := level, wire := w, session := x, ret := r, schedule := q } :=
  ⟨h.buffers, h.counted, h.inFlight, h.writing, h.reading, h.checking, h.delaying, h.streamed, h.verdict,
    h.transport, h.protocol, h.checksum⟩

/-- Settles O52: after reset nothing is counted, nothing is in flight and there is no verdict. -/
theorem invariantHoldsAtReset : Obligations.InvariantHoldsAtReset :=
  Inv.of_idle rfl ⟨Memory.wf_nil, Memory.wf_nil⟩ ⟨[], rfl⟩ (by decide) (fun h => nomatch h) (fun h => nomatch h)
    (by decide)

theorem inv_resetBlock (s : State) : Inv s.resetBlock :=
  Inv.outside invariantHoldsAtReset s.chanOpen s.wire s.session .none s.schedule

/-! ### START -/

theorem Inv.prepared {s u : State} (h : Inv s) (prep : Prepared s u) : Inv u := by
  obtain ⟨m, x, y, r, hidle, wf⟩ := prep
  exact .of_idle hidle ⟨wf h.buffers.1, h.buffers.2⟩ h.counted (h.verdict hidle) h.transport h.protocol h.checksum

theorem Inv.startFailed {s : State} (h : Inv s) {c : Cause} (hc : c = .badParam ∨ c = .notOpen) :
    Inv (s.startFailed c) :=
  .of_idle rfl h.buffers ⟨[], rfl⟩ (by simp) (fun hr => nomatch hr) (fun _ => ⟨rfl, rfl, hc⟩) (by simp)

/-- An attempt begins with nothing sent and nothing received. -/
theorem inv_begun {s : State} {bytes : List Byte} (buffers : BuffersWf s) (hfl : InFlight (s.begun bytes)) :
    Inv (s.begun bytes) := by
  obtain ⟨hlegal, _⟩ := id hfl
  obtain ⟨htx, _⟩ := (legalLengths_eq_true _).1 hlegal
  exact .of_write rfl hfl buffers htx rfl

theorem Inv.started {s : State} {bytes : List Byte} (h : Inv s) (legal : legalLengths s = true)
    (command : s.txbuf.slice 0 s.txlen.toNat = some bytes) : Inv (s.accepted.begun bytes) :=
  inv_begun h.buffers ⟨legal, ⟨bytes, command⟩, le_rfl, rfl, rfl, rfl, rfl, rfl, rfl⟩

/-- The delay of attempt 1 or 2 is over: the number of the next attempt is 2 or 3. -/
theorem Inv.retried {s : State} {bytes : List Byte} (h : Inv s) (hseq : s.seq = .delay) :
    Inv ((s.putTimer 0#16).begun bytes) := by
  obtain ⟨hlt, _⟩ := h.delaying hseq
  obtain ⟨legal, command, _, hflags⟩ := h.inFlight (by simp [hseq])
  have hattempt : 1 ≤ (s.attempt + 1#2).toNat := by rw [BitVec.toNat_add]; simp; omega
  exact inv_begun h.buffers ⟨legal, command, hattempt, hflags⟩

/-! ### The write phase -/

@[simp] theorem accOf_nil (n : Nat) : accOf [] n = 0#8 := by simp [accOf, accSum]

theorem Inv.sent {s : State} (h : Inv s) (b : Byte) (hseq : s.seq = .write)
    (more : s.txidx.toNat + 1 < s.txlen.toNat) : Inv (s.sent b) := by
  have hidx : (s.sent b).txidx.toNat < s.txlen.toNat := by
    have := s.txlen.isLt
    simp only [State.sent_txidx, BitVec.toNat_ofNat]; omega
  obtain ⟨_, hcnt⟩ := h.writing hseq
  exact .of_write hseq (h.inFlight_of_busy (by simp [hseq])) h.buffers hidx hcnt

/-- Into `READ`: the timer is `T_RD`, nothing is received, and the accumulator is 0. -/
theorem Inv.sentLast {s : State} (h : Inv s) (b : Byte) (hseq : s.seq = .write)
    (last : s.txidx.toNat + 1 = s.txlen.toNat) : Inv (s.sent b).enterRead := by
  have hidx : (s.sent b).enterRead.txidx = s.txlen := by
    simp only [State.enterRead_txidx, State.sent_txidx, last, BitVec.ofNat_toNat, BitVec.setWidth_eq]
  have hfl : InFlight s := h.inFlight_of_busy (by simp [hseq])
  obtain ⟨hrx, _⟩ := hfl.rxlen_le
  have hrx0 : (0#9).toNat < s.rxlen.toNat := by simp only [BitVec.toNat_ofNat]; omega
  exact .of_read (bytes := []) rfl hfl h.buffers rfl (accOf_nil _).symm hidx hrx0 ⟨Config.one_le_tRd, le_rfl⟩

/-! ### The read phase -/

/-- The accumulator of R146 over one byte more. -/
theorem accOf_snoc (bytes : List Byte) (b : Byte) (n : Nat) :
    accOf (bytes ++ [b]) n =
      if 1 ≤ bytes.length ∧ bytes.length + 2 ≤ n then accOf bytes n + b else accOf bytes n := by
  unfold accOf
  by_cases hn : bytes.length + 2 ≤ n
  · rw [List.take_of_length_le (by simp; omega), List.take_of_length_le (by omega)]
    cases bytes with
    | nil => rfl
    | cons a r =>
      rw [if_pos ⟨by simp, hn⟩]
      simp [accSum_append, accSum]
  · rw [if_neg (by omega), List.take_append_of_le_length (by omega)]

/-- A byte is stored at `RXCNT` and counted; the last one ends the read phase. -/
theorem Inv.received {s : State} (h : Inv s) (b : Byte) (hseq : s.seq = .read) : Inv (s.received b) := by
  obtain ⟨hidx, hlt, htimer⟩ := h.reading hseq
  have hfl : InFlight s := h.inFlight_of_busy (by simp [hseq])
  obtain ⟨_, hrx⟩ := hfl.rxlen_le
  have hcnt : (s.received b).rxcnt.toNat = s.rxcnt.toNat + 1 := by
    simp only [State.received_rxcnt, BitVec.toNat_ofNat]; omega
  obtain ⟨bytes, hbytes⟩ := h.counted
  have hold : (s.received b).rxbuf.slice 0 s.rxcnt.toNat = some bytes := by
    rw [← hbytes]
    exact Memory.slice_congr fun k hk => Memory.read_write_other _ _ _ _ (by omega)
  have hnew : (s.received b).rxbuf.slice 0 (s.received b).rxcnt.toNat = some (bytes ++ [b]) := by
    rw [hcnt]
    exact Memory.slice_snoc hold (by rw [Nat.zero_add]; exact Memory.read_write_same _ _ _)
  have hacc : (s.received b).ckAcc = accOf (bytes ++ [b]) s.rxlen.toNat := by
    rw [accOf_snoc, Memory.slice_length hbytes, ← h.streamed (.inl hseq) bytes hbytes]
    rfl
  have hwf : BuffersWf (s.received b) :=
    ⟨h.buffers.1, Memory.wf_write _ _ b h.buffers.2 (by rw [Config.bufCap]; omega)⟩
  by_cases hfull : s.rxcnt.toNat + 1 = s.rxlen.toNat
  · exact .of_check (by simp [hfull]) hfl hwf hnew hacc hidx (BitVec.eq_of_toNat_eq (hcnt.trans hfull))
  · have hmore : (s.received b).rxcnt.toNat < s.rxlen.toNat := by rw [hcnt]; omega
    exact .of_read (by simp [hfull, hseq]) hfl hwf hnew hacc hidx hmore htimer

/-! ### Ticks, failures, completion -/

/-- A tick that is not the last leaves the timer running. -/
theorem Inv.ticked {s : State} (h : Inv s) (hseq : s.seq = .read ∨ s.seq = .delay) (more : 1 < s.timer.toNat) :
    Inv (s.putTimer (s.timer - 1#16)) := by
  have htimer : (s.timer - 1#16).toNat = s.timer.toNat - 1 := by bv_omega
  have hbusy : s.seq ≠ .idle := by rcases hseq with hseq | hseq <;> simp [hseq]
  refine .of_busy hbusy (h.inFlight_of_busy hbusy) h.buffers h.counted h.writing (fun hr => ?_) h.checking (fun hd => ?_)
    h.streamed
  · obtain ⟨hidx, hcnt, _, hle⟩ := h.reading hr
    simp only [State.putTimer_timer, htimer]
    exact ⟨hidx, hcnt, by omega, by omega⟩
  · obtain ⟨hattempt, hcause, _, hle, hidx, hcnt⟩ := h.delaying hd
    simp only [State.putTimer_timer, htimer]
    exact ⟨hattempt, hcause, by omega, by omega, hidx, hcnt⟩

/-- R24's bounds in the two states in which an attempt can fail. -/
theorem Inv.counters_le {s : State} (h : Inv s) (hseq : s.seq = .write ∨ s.seq = .read) :
    s.txidx.toNat ≤ s.txlen.toNat ∧ s.rxcnt.toNat ≤ s.rxlen.toNat := by
  rcases hseq with hseq | hseq
  · obtain ⟨hidx, hcnt⟩ := h.writing hseq
    exact ⟨hidx.le, by simp [hcnt]⟩
  · obtain ⟨hidx, hcnt, _⟩ := h.reading hseq
    exact ⟨by simp [hidx], hcnt.le⟩

/-- Attempts 1 and 2 fail into the delay, attempt 3 fails the transaction. -/
theorem Inv.failed {s : State} (h : Inv s) {c : Cause} {bytes : List Byte} (e : ChanErr) (n : Word16)
    (hseq : s.seq = .write ∨ s.seq = .read) (hc : c = .writeErr ∨ c = .readErr ∨ c = .timeout) :
    Inv (((s.putErrcode e).putTimer n).attemptFailed c bytes) := by
  have hfl : InFlight s := h.inFlight_of_busy (by rcases hseq with hseq | hseq <;> simp [hseq])
  by_cases hlast : s.attempt.toNat < 3
  · rw [State.attemptFailed_retry (s := (s.putErrcode e).putTimer n) c bytes hlast]
    have hcause : c ≠ .none := by rcases hc with rfl | rfl | rfl <;> simp
    have htimer : 1 ≤ Config.tDly.toNat := by simp
    exact .of_busy (by simp) hfl h.buffers h.counted (by simp) (by simp) (by simp)
      (fun _ => ⟨hlast, hcause, htimer, le_rfl, h.counters_le hseq⟩) (by simp)
  · rw [State.attemptFailed_last (s := (s.putErrcode e).putTimer n) c bytes hlast]
    have hthree : s.attempt.toNat = 3 := by have := s.attempt.isLt; omega
    exact .of_idle rfl h.buffers h.counted (by simp) (fun _ => ⟨hthree, hc⟩) (by simp) (by simp)

/-- The check step completes with `OK` or `FAIL_CHECKSUM`, as `CK_OK` says. -/
theorem Inv.checked {s : State} (h : Inv s) (f : List Byte) (hseq : s.seq = .check) :
    Inv ((s.checked f).complete (checkVerdict f)) := by
  have hattempt : 1 ≤ s.attempt.toNat := (h.inFlight_of_busy (by simp [hseq])).one_le_attempt
  unfold checkVerdict
  cases hck : isCkOk f
  · exact .of_idle rfl h.buffers h.counted (by simp) (by simp) (by simp) (fun _ => ⟨hattempt, by simp [hck]⟩)
  · exact .of_idle rfl h.buffers h.counted (by simp) (by simp) (by simp) (fun _ => ⟨hattempt, by simp [hck]⟩)

theorem Inv.effect {s t : State} (h : Inv s) (heff : Effect s t) : Inv t := by
  cases heff with
  | outside level x r => exact h.outside level s.wire x r s.schedule
  | prepared prep => exact h.prepared prep
  | startFailed prep cause => exact ((h.prepared prep).startFailed cause).outside _ _ _ .performed _
  | started prep legal command => exact ((h.prepared prep).started legal command).outside _ _ _ .performed _
  | sent b seq more => exact h.sent b seq more
  | sentLast b seq last => exact h.sentLast b seq last
  | received b seq _ => exact h.received b seq
  | ticked seq more => exact h.ticked seq more
  | failed e n seq cause _ => exact h.failed e n seq cause
  | begun seq _ => exact h.retried seq
  | checked seq _ => exact h.checked _ seq

/-- Settles O51: reset establishes the invariants, and every other step is an effect, which keeps them. -/
theorem stepKeepsTheInvariant : Obligations.StepKeepsTheInvariant := by
  intro s t hs h
  rcases step_effect h with ⟨_, rest, rfl⟩ | ⟨rest, heff⟩
  · exact inv_resetBlock _
  · exact (hs.outside s.chanOpen s.wire s.session s.ret rest).effect heff

end Sys2Proof.Machine

/-! ## State: what no instruction reads (R38, R39) -/

namespace Sys2Proof.Machine

/-- The state with `CHAN_OPEN` changed by `g` and the records `before` in front of the trace. -/
def State.withUnread (g : Bool → Bool) (before : List TraceRecord) (s : State) : State :=
  { s with chanOpen := g s.chanOpen, trace := before ++ s.trace }

/-- A meaning neither reads nor undoes the change `f` of the state. -/
def Commutes (f : State → State) (k : State → Answer) : Prop := ∀ s, k (f s) = mapNext f (k s)

/-! ### The forms a meaning is built from -/

theorem Commutes.next {f op : State → State} (h : ∀ s, op (f s) = f (op s) := by exact fun _ => rfl) :
    Commutes f fun s => .next (op s) := fun s => congrArg Host.Outcome.next (h s)

theorem Commutes.fault (f : State → State) (r : Fault) : Commutes f fun _ => .fault r := fun _ => rfl

theorem Commutes.refused (f : State → State) (r : Refusal) : Commutes f fun _ => .refused r := fun _ => rfl

/-- A case split on a condition that the change does not touch. -/
theorem Commutes.ite {f : State → State} {c : State → Prop} [DecidablePred c] {a b : State → Answer}
    (ha : Commutes f a) (hb : Commutes f b) (hc : ∀ s, c (f s) ↔ c s := by exact fun _ => Iff.rfl) :
    Commutes f fun s => if c s then a s else b s := by
  intro s
  by_cases h : c s
  · simp only [h, (hc s).2 h, if_true]
    exact ha s
  · simp only [h, mt (hc s).1 h, if_false]
    exact hb s

theorem Commutes.andThen {f : State → State} {a k : State → Answer} (ha : Commutes f a) (hk : Commutes f k) :
    Commutes f fun s => andThen (a s) k := by
  intro s
  simp only [ha s]
  cases a s with
  | next t => exact hk t
  | fault r => rfl
  | refused r => rfl

/-- A meaning run in the state an update leaves. -/
theorem Commutes.comp {f op : State → State} {k : State → Answer} (hk : Commutes f k)
    (h : ∀ s, op (f s) = f (op s) := by exact fun _ => rfl) : Commutes f fun s => k (op s) :=
  fun s => (congrArg k (h s)).trans (hk (op s))

/-! ### What a meaning reads -/

section
variable (g : Bool → Bool) (before : List TraceRecord) (s : State)

@[simp] theorem State.withUnread_txbuf : (s.withUnread g before).txbuf = s.txbuf := rfl
@[simp] theorem State.withUnread_rxbuf : (s.withUnread g before).rxbuf = s.rxbuf := rfl
@[simp] theorem State.withUnread_txlen : (s.withUnread g before).txlen = s.txlen := rfl
@[simp] theorem State.withUnread_rxlen : (s.withUnread g before).rxlen = s.rxlen := rfl
@[simp] theorem State.withUnread_rxcnt : (s.withUnread g before).rxcnt = s.rxcnt := rfl

@[simp] theorem csrValue_withUnread (n : Nat) : csrValue (s.withUnread g before) n = csrValue s n := rfl
@[simp] theorem txData_withUnread : txData (s.withUnread g before) = txData s := rfl
@[simp] theorem hostRx_withUnread (i : Nat) : hostRx (s.withUnread g before) i = hostRx s i := rfl
@[simp] theorem hostRxFrame_withUnread (n : Nat) : hostRxFrame (s.withUnread g before) n = hostRxFrame s n := rfl
@[simp] theorem readVersionInfo_withUnread : readVersionInfo (s.withUnread g before) = readVersionInfo s := rfl

end

/-! ### The updates that write the trace or split on a register -/

section
variable (g : Bool → Bool) (before : List TraceRecord)

theorem State.begun_withUnread (s : State) (bytes : List Byte) :
    (s.withUnread g before).begun bytes = (s.begun bytes).withUnread g before := by
  simp only [State.begun, State.withUnread, List.append_assoc]

theorem State.attemptFailed_withUnread (s : State) (c : Cause) (bytes : List Byte) :
    (s.withUnread g before).attemptFailed c bytes = (s.attemptFailed c bytes).withUnread g before := by
  by_cases h : s.attempt.toNat < 3
  · rw [State.attemptFailed_retry c bytes h, State.attemptFailed_retry (s := s.withUnread g before) c bytes h]
    simp only [State.withUnread, List.append_assoc]
  · rw [State.attemptFailed_last c bytes h, State.attemptFailed_last (s := s.withUnread g before) c bytes h]
    simp only [State.withUnread, List.append_assoc]

theorem State.checked_withUnread (s : State) (f : List Byte) :
    (s.withUnread g before).checked f = (s.checked f).withUnread g before := by
  simp only [State.checked, State.withUnread, List.append_assoc]

theorem State.writeTxlen_withUnread (s : State) (v : Word16) :
    (s.withUnread g before).writeTxlen v = (s.writeTxlen v).withUnread g before := by
  have hbusy : busy (s.withUnread g before) = busy s := rfl
  unfold State.writeTxlen
  rw [hbusy]
  split <;> rfl

theorem State.writeRxlen_withUnread (s : State) (v : Word16) :
    (s.withUnread g before).writeRxlen v = (s.writeRxlen v).withUnread g before := by
  have hbusy : busy (s.withUnread g before) = busy s := rfl
  unfold State.writeRxlen
  rw [hbusy]
  split <;> rfl

/-! ### The meanings -/

theorem execEncode_commutes (src dst cmd : Byte) (p : List Byte) :
    Commutes (State.withUnread g before) (execEncode src dst cmd p) :=
  .ite .next (.ite .next .next)

theorem execTxwr_commutes (i : Nat) (v : Byte) : Commutes (State.withUnread g before) (execTxwr i v) :=
  .ite .next (.ite .next .next)

theorem execTxrd_commutes (i : Nat) : Commutes (State.withUnread g before) (execTxrd i) := by
  refine .ite (fun s => ?_) .next
  simp only [State.withUnread_txbuf]
  cases s.txbuf.read i <;> rfl

theorem execSettxlen_commutes (n : Word16) : Commutes (State.withUnread g before) (execSettxlen n) :=
  .next fun s => s.writeTxlen_withUnread g before n

theorem execSetrxlen_commutes (n : Word16) : Commutes (State.withUnread g before) (execSetrxlen n) :=
  .next fun s => s.writeRxlen_withUnread g before n

theorem execCsrrd_commutes (n : Word16) : Commutes (State.withUnread g before) (execCsrrd n) := by
  intro s
  simp only [execCsrrd, csrValue_withUnread]
  cases csrValue s n.toNat <;> rfl

theorem execDecode_commutes : Commutes (State.withUnread g before) execDecode := by
  refine .ite .next (.ite .next (.ite .next (.ite .next fun s => ?_)))
  simp only [hostRxFrame_withUnread, State.withUnread_rxlen]
  cases (hostRxFrame s s.rxlen.toNat).bind frameFields <;> rfl

theorem execRxrd_commutes (i : Nat) : Commutes (State.withUnread g before) (execRxrd i) := by
  refine .ite .next (.ite .next fun s => ?_)
  simp only [hostRx_withUnread]
  cases hostRx s i <;> rfl

theorem execCkverify_commutes (n : Nat) : Commutes (State.withUnread g before) (execCkverify n) := by
  refine .ite .next (.ite .next (.ite .next fun s => ?_))
  simp only [hostRxFrame_withUnread]
  cases hostRxFrame s n <;> rfl

theorem execCkfill_commutes : Commutes (State.withUnread g before) execCkfill := by
  refine .ite .next (.ite .next fun s => ?_)
  simp only [State.withUnread_txbuf, State.withUnread_txlen]
  cases s.txbuf.slice 1 (s.txlen.toNat - 2) <;> rfl

theorem beginAttempt_commutes : Commutes (State.withUnread g before) beginAttempt := by
  intro s
  simp only [beginAttempt, State.withUnread_txbuf, State.withUnread_txlen]
  cases s.txbuf.slice 0 s.txlen.toNat with
  | none => rfl
  | some bytes => exact congrArg Host.Outcome.next (s.begun_withUnread g before bytes)

theorem failAttempt_commutes (c : Cause) : Commutes (State.withUnread g before) (failAttempt c) := by
  intro s
  simp only [failAttempt, State.withUnread_rxbuf, State.withUnread_rxcnt]
  cases s.rxbuf.slice 0 s.rxcnt.toNat with
  | none => rfl
  | some bytes => exact congrArg Host.Outcome.next (s.attemptFailed_withUnread g before c bytes)

theorem execTxAccept_commutes : Commutes (State.withUnread g before) execTxAccept := by
  refine .ite (fun s => ?_) (.refused _ _)
  simp only [txData_withUnread]
  cases txData s <;> rfl

theorem execTxAcceptLast_commutes : Commutes (State.withUnread g before) execTxAcceptLast := by
  refine .ite (fun s => ?_) (.refused _ _)
  simp only [txData_withUnread]
  cases txData s <;> rfl

theorem execTxError_commutes (e : ChanErr) : Commutes (State.withUnread g before) (execTxError e) :=
  .ite (.comp (failAttempt_commutes g before .writeErr)) (.refused _ _)

theorem execRxByte_commutes (b : Byte) : Commutes (State.withUnread g before) (execRxByte b) :=
  .ite (.ite .next (.fault _ _)) (.refused _ _)

theorem execRxError_commutes (e : ChanErr) : Commutes (State.withUnread g before) (execRxError e) :=
  .ite (.comp (failAttempt_commutes g before .readErr)) (.refused _ _)

theorem execTickRead_commutes : Commutes (State.withUnread g before) execTickRead :=
  .ite (.ite .next (.comp (failAttempt_commutes g before .timeout))) (.refused _ _)

theorem execTickDelay_commutes : Commutes (State.withUnread g before) execTickDelay :=
  .ite (.ite .next (.comp (beginAttempt_commutes g before))) (.refused _ _)

theorem execCheck_commutes : Commutes (State.withUnread g before) execCheck := by
  refine .ite (fun s => ?_) (.refused _ _)
  simp only [State.withUnread_rxbuf, State.withUnread_rxlen]
  cases s.rxbuf.slice 0 s.rxlen.toNat with
  | none => rfl
  | some f =>
    exact congrArg (fun t : State => Host.Outcome.next (t.complete (checkVerdict f))) (s.checked_withUnread g before f)

theorem execTickIdle_commutes : Commutes (State.withUnread g before) execTickIdle :=
  .ite (.refused _ _) .next

/-- Whether a response may be read does not depend on the change; `k` is what is made of it. -/
theorem readResponse_commutes {k : State → Answer} (hk : Commutes (State.withUnread g before) k) :
    Commutes (State.withUnread g before) fun s => readResponse s (k s) :=
  .ite .next (.ite .next (.ite .next hk))

theorem execVersionResp_commutes : Commutes (State.withUnread g before) execVersionResp := by
  refine readResponse_commutes g before fun s => ?_
  simp only [readVersionInfo_withUnread]
  cases readVersionInfo s <;> rfl

theorem execNumHeatersResp_commutes : Commutes (State.withUnread g before) execNumHeatersResp := by
  refine readResponse_commutes g before fun s => ?_
  simp only [hostRx_withUnread]
  cases hostRx s Config.heaterCountOffset <;> rfl

/-- START samples `CHAN_OPEN`, so here the level stays as it is. -/
theorem execStart_commutes : Commutes (State.withUnread id before) execStart := by
  refine .ite .next (.ite .next (.ite .next fun s => ?_))
  simp only [State.withUnread_txbuf, State.withUnread_txlen]
  cases s.txbuf.slice 0 s.txlen.toNat with
  | none => rfl
  | some bytes =>
    exact congrArg (fun t : State => Host.Outcome.next (t.returning .performed))
      (s.accepted.begun_withUnread id before bytes)

theorem issueRequest_commutes (cmd : Byte) (n : Nat) : Commutes (State.withUnread id before) (issueRequest cmd n) :=
  .andThen (execEncode_commutes id before _ _ _ _)
    (.andThen (execCkfill_commutes id before)
      (.andThen (execSetrxlen_commutes id before _) (execStart_commutes before)))

/-- No instruction reads the trace, and only those that issue a START read `CHAN_OPEN`. -/
theorem exec_commutes {i : Instr} (hg : opensTransaction i = true → g = id) :
    Commutes (State.withUnread g before) (exec i) := by
  cases i with
  | getVersion => cases hg rfl; exact issueRequest_commutes before _ _
  | numHeaters => cases hg rfl; exact issueRequest_commutes before _ _
  | forceReboot => exact .next
  | forceReset => exact .next
  | setPwm => exact .next
  | versionResp => exact execVersionResp_commutes g before
  | numHeatersResp => exact execNumHeatersResp_commutes g before
  | encode => exact execEncode_commutes g before _ _ _ _
  | ckfill => exact execCkfill_commutes g before
  | start => cases hg rfl; exact execStart_commutes before
  | decode => exact execDecode_commutes g before
  | ckverify => exact execCkverify_commutes g before _
  | txwr => exact execTxwr_commutes g before _ _
  | txrd => exact execTxrd_commutes g before _
  | rxrd => exact execRxrd_commutes g before _
  | settxlen => exact execSettxlen_commutes g before _
  | setrxlen => exact execSetrxlen_commutes g before _
  | csrrd => exact execCsrrd_commutes g before _
  | txAccept => exact execTxAccept_commutes g before
  | txAcceptLast => exact execTxAcceptLast_commutes g before
  | txError => exact execTxError_commutes g before _
  | rxByte => exact execRxByte_commutes g before _
  | rxError => exact execRxError_commutes g before _
  | tickRead => exact execTickRead_commutes g before
  | tickDelay => exact execTickDelay_commutes g before
  | check => exact execCheck_commutes g before
  | tickIdle => exact execTickIdle_commutes g before
  | readVersion => exact .next
  | readReport => exact .next

end

/-- Settles O44: `exec_commutes` with `CHAN_OPEN` set to the level and no record in front. -/
theorem chanOpenIsSampledOnlyByStart : Obligations.ChanOpenIsSampledOnlyByStart := by
  intro i s level hi
  exact exec_commutes (fun _ => level) [] (fun h => absurd h (by simp [hi])) s

/-- Settles O45: `exec_commutes` with `CHAN_OPEN` as it is. -/
theorem traceIsOutputOnly : Obligations.TraceIsOutputOnly := by
  intro i s before
  exact exec_commutes id before (fun _ => rfl) s

end Sys2Proof.Machine

/-! ## State: register images, reset values, inputs (R38, R40 to R42, R47) -/

namespace Sys2Proof.Machine

section
variable {m : Nat} (x : BitVec m) (b : Bool)

theorem getLsbD_zero_append_ofBool : (x ++ BitVec.ofBool b).getLsbD 0 = b := by
  rw [BitVec.getLsbD_append, if_pos Nat.one_pos, BitVec.getLsbD_ofBool]; rfl

theorem getLsbD_succ_append_ofBool (i : Nat) : (x ++ BitVec.ofBool b).getLsbD (i + 1) = x.getLsbD i := by
  rw [BitVec.getLsbD_append, if_neg (by omega), Nat.add_sub_cancel]

theorem extractLsb'_succ_append_ofBool (i n : Nat) :
    (x ++ BitVec.ofBool b).extractLsb' (i + 1) n = x.extractLsb' i n := by
  rw [BitVec.extractLsb'_append_eq_of_le (by omega), Nat.add_sub_cancel]

end

/-- The fields of R41's concatenation, from bit 0 up. -/
theorem statusLayout (e : Byte) (c v : BitVec 3) (d b : Bool) :
    let w := e ++ c ++ v ++ BitVec.ofBool d ++ BitVec.ofBool b
    w.getLsbD 0 = b ∧ w.getLsbD 1 = d ∧ w.extractLsb' 2 3 = v ∧ w.extractLsb' 5 3 = c ∧ w.extractLsb' 8 8 = e := by
  intro w
  have hfields (i n : Nat) : w.extractLsb' (i + 2) n = (e ++ c ++ v).extractLsb' i n :=
    (extractLsb'_succ_append_ofBool _ b (i + 1) n).trans (extractLsb'_succ_append_ofBool _ d i n)
  refine ⟨getLsbD_zero_append_ofBool _ b, ?done, ?result, ?cause, ?errcode⟩
  case done => exact (getLsbD_succ_append_ofBool _ b 0).trans (getLsbD_zero_append_ofBool _ d)
  case result => exact (hfields 0 3).trans BitVec.extractLsb'_append_eq_right
  case cause =>
    rw [hfields 3 3, BitVec.extractLsb'_append_eq_of_le le_rfl]
    exact BitVec.extractLsb'_append_eq_right
  case errcode =>
    rw [hfields 6 8, BitVec.extractLsb'_append_eq_of_le (by decide)]
    exact BitVec.extractLsb'_append_eq_left

/-- The fields of R42's concatenation, from bit 0 up. -/
theorem pstatLayout (k : Byte) (z : BitVec 5) (ck len som : Bool) :
    let w := k ++ z ++ BitVec.ofBool ck ++ BitVec.ofBool len ++ BitVec.ofBool som
    w.getLsbD 0 = som ∧ w.getLsbD 1 = len ∧ w.getLsbD 2 = ck ∧ w.extractLsb' 3 5 = z ∧ w.extractLsb' 8 8 = k := by
  intro w
  have hbits (i : Nat) : w.getLsbD (i + 1) = (k ++ z ++ BitVec.ofBool ck ++ BitVec.ofBool len).getLsbD i :=
    getLsbD_succ_append_ofBool _ som i
  have hfields (i n : Nat) : w.extractLsb' (i + 3) n = (k ++ z).extractLsb' i n :=
    (extractLsb'_succ_append_ofBool _ som (i + 2) n).trans
      ((extractLsb'_succ_append_ofBool _ len (i + 1) n).trans (extractLsb'_succ_append_ofBool _ ck i n))
  refine ⟨getLsbD_zero_append_ofBool _ som, ?length, ?checksum, ?zeros, ?calculated⟩
  case length => exact (hbits 0).trans (getLsbD_zero_append_ofBool _ len)
  case checksum =>
    exact (hbits 1).trans ((getLsbD_succ_append_ofBool _ len 0).trans (getLsbD_zero_append_ofBool _ ck))
  case zeros => exact (hfields 0 5).trans BitVec.extractLsb'_append_eq_right
  case calculated => exact (hfields 5 8).trans BitVec.extractLsb'_append_eq_left

/-- CSRRD of a number that has a register gives its image. -/
theorem exec_csrrd {n : Word16} {s : State} {w : Word16} (h : csrValue s n.toNat = some w) :
    exec (.csrrd n) s = .next { s with ret := .word w } := by
  change execCsrrd n s = _
  unfold execCsrrd
  rw [h]
  rfl

/-- Settles O19: STATUS and PSTAT by their layouts, the other registers in full. -/
theorem registersReadAsTabled : Obligations.RegistersReadAsTabled := by
  intro s
  have himage {m : Nat} (v : BitVec m) : some (v.setWidth 16) = some (BitVec.ofNat 16 v.toNat) :=
    congrArg some (BitVec.ofNat_toNat 16 v).symm
  refine ⟨⟨statusWord s, exec_csrrd rfl, statusLayout _ _ _ _ _⟩, ⟨pstatWord s, exec_csrrd rfl, pstatLayout _ _ _ _ _⟩,
    exec_csrrd (himage _), exec_csrrd (himage _), exec_csrrd (himage _), exec_csrrd (himage _),
    exec_csrrd (himage _), exec_csrrd rfl, exec_csrrd (himage _), exec_csrrd rfl, exec_csrrd rfl, ?seq, ?verdict,
    ?cause⟩
  case seq => decide
  case verdict => decide
  case cause => decide

/-- Settles O41: each value stands in `State.reset`, and the two images are computed from them. -/
theorem stateAfterReset : Obligations.StateAfterReset := by
  obtain ⟨hstatus, hpstat⟩ : statusWord State.reset = 0 ∧ pstatWord State.reset = 0 := by decide
  have hempty : ∀ a, State.reset.txbuf.read a = none ∧ State.reset.rxbuf.read a = none :=
    fun a => ⟨Memory.read_nil a, Memory.read_nil a⟩
  exact ⟨rfl, rfl, rfl, rfl, rfl, rfl, rfl, rfl, rfl, rfl, rfl, rfl, rfl, rfl, rfl, rfl, hempty, rfl, rfl, rfl, rfl,
    congrArg some hstatus, congrArg some hpstat⟩

/-- Settles O43: the step takes the input, and opening a closed channel clears the session. -/
theorem channelLevelIsAnInput : Obligations.ChannelLevelIsAnInput := by
  intro s level rest hq
  have hopens : (level && !s.chanOpen) = true ↔ level = true ∧ s.chanOpen = false := by simp
  simp only [step_chanOpen hq, State.driveChanOpen, State.taking, hopens]

end Sys2Proof.Machine

/-! ## Memory: the record of the wire (`spec/20_memory.md` R64, R74) -/

namespace Sys2Proof

open Laws.HostNumber (number)

/-! ### Only the channel's accept decodes to a step that sends -/

theorem operand16_number {k : Word16 → Instr} {args rest : List Byte} {i : Instr}
    (hk : ∀ n, (number (k n)).isSome) (h : operand16 k args = .ok (i, rest)) : (number i).isSome := by
  unfold operand16 at h
  split at h <;> cases h
  exact hk _

theorem encodeOperands_number {args rest : List Byte} {i : Instr} (h : encodeOperands args = .ok (i, rest)) :
    (number i).isSome := by
  unfold encodeOperands at h
  split at h
  · split at h <;> cases h
    rfl
  · cases h

theorem txwrOperands_number {args rest : List Byte} {i : Instr} (h : txwrOperands args = .ok (i, rest)) :
    (number i).isSome := by
  unfold txwrOperands at h
  split at h <;> cases h
  rfl

/-- A host word decodes to host operations alone. -/
theorem decodeHost_number {w rest : List Byte} {i : Instr} (h : decodeHost w = .ok (i, rest)) :
    (number i).isSome := by
  cases w with
  | nil => cases h
  | cons op args =>
    change decodeOperands op args = _ at h
    unfold decodeOperands at h
    split at h
    · exact encodeOperands_number h
    · cases h; rfl
    · cases h; rfl
    · cases h; rfl
    · exact operand16_number (fun _ => rfl) h
    · exact txwrOperands_number h
    · exact operand16_number (fun _ => rfl) h
    · exact operand16_number (fun _ => rfl) h
    · exact operand16_number (fun _ => rfl) h
    · exact operand16_number (fun _ => rfl) h
    · exact operand16_number (fun _ => rfl) h
    · cases h

theorem decodeFrame_eq_ok {f : List Byte} {i : Instr} (h : decodeFrame f = .ok i) :
    i = .getVersion ∨ i = .numHeaters ∨ i = .forceReboot ∨ i = .forceReset := by
  unfold decodeFrame at h
  split at h
  · split_ifs at h <;> cases h <;> simp
  · cases h

/-- The two rows of TxAccept are selected by that event alone (R162). -/
theorem event_of_decodeEvent_txAccept {c : RowContext} {e : Event} {i : Instr} (h : decodeEvent c e = .ok i)
    (hi : i = .txAccept ∨ i = .txAcceptLast) : e = .txAccept := by
  cases e with
  | txAccept => rfl
  | host w =>
    simp only [decodeEvent] at h
    split at h
    · next hw =>
      cases h
      have hn := decodeHost_number hw
      rcases hi with rfl | rfl <;> cases hn
    · cases h
  | frame f => rcases decodeFrame_eq_ok h with rfl | rfl | rfl | rfl <;> simp at hi
  | session call => cases h; cases call <;> simp [decodeCall] at hi
  | tick => cases h; cases hc : c.seq <;> simp [tickRow, hc] at hi
  | _ => cases h <;> simp at hi

end Sys2Proof

namespace Sys2Proof.Machine

/-! ### Outside WRITE nothing is sent, and in WRITE only the channel moves the block -/

theorem Effect.wire_unchanged {s t : State} (h : Effect s t) (hwrite : s.seq ≠ .write) : t.wire = s.wire := by
  cases h with
  | prepared prep => cases prep; rfl
  | startFailed prep => cases prep; rfl
  | started prep => cases prep; rfl
  | sent _ seq => exact absurd seq hwrite
  | sentLast _ seq => exact absurd seq hwrite
  | failed => simp
  | _ => rfl

/-- The engine is busy, so the instruction answers the host or the session and does nothing else. -/
def OnlyAnswers (s t : State) : Prop := ∃ x r, t = { s with session := x, ret := r }

theorem OnlyAnswers.returning (s : State) (r : HostReturn) : OnlyAnswers s (s.returning r) := ⟨s.session, r, rfl⟩

theorem OnlyAnswers.refusing (s : State) (r : RefuseReason) : OnlyAnswers s (s.refusing r) :=
  ⟨s.session, .refused r, rfl⟩

theorem OnlyAnswers.wire_eq {s t : State} (h : OnlyAnswers s t) : t.wire = s.wire := by
  obtain ⟨_, _, rfl⟩ := h
  rfl

theorem OnlyAnswers.of_returning {a : Answer} {s t : State} (ha : ∃ r, a = .next (s.returning r)) (h : a = .next t) :
    OnlyAnswers s t := by
  obtain ⟨r, rfl⟩ := ha
  cases h
  exact .returning s r

theorem OnlyAnswers.of_refusing {a : Answer} {s t : State} {r : RefuseReason} (ha : a = .next (s.refusing r))
    (h : a = .next t) : OnlyAnswers s t := by
  cases ha.symm.trans h
  exact .refusing s r

/-- In `WRITE` no instruction but the channel's three answers moves the block (R43, R121, R165, R177). -/
theorem exec_onlyAnswers_in_write {i : Instr} {s t : State} (hseq : s.seq = .write) (haccept : i ≠ .txAccept)
    (hlast : i ≠ .txAcceptLast) (herror : ∀ e, i ≠ .txError e) (h : exec i s = .next t) : OnlyAnswers s t := by
  have hbusy : s.seq ≠ .idle := by simp [hseq]
  cases i with
  | getVersion => exact .of_refusing (issueRequest_busy _ _ s hbusy) h
  | numHeaters => exact .of_refusing (issueRequest_busy _ _ s hbusy) h
  | forceReboot => exact .of_returning ⟨.unsupported, rfl⟩ h
  | forceReset => exact .of_returning ⟨.unsupported, rfl⟩ h
  | setPwm => exact .of_returning ⟨.unsupported, rfl⟩ h
  | readVersion => exact .of_returning ⟨.unsupported, rfl⟩ h
  | readReport => exact .of_returning ⟨.unsupported, rfl⟩ h
  | versionResp =>
    rcases execVersionResp_next s with ha | ⟨v, _, hv⟩
    · exact .of_returning ha h
    · cases h.symm.trans hv
      exact ⟨_, _, rfl⟩
  | numHeatersResp =>
    rcases execNumHeatersResp_next s with ha | ⟨n, _, hn⟩
    · exact .of_returning ha h
    · cases h.symm.trans hn
      exact ⟨_, _, rfl⟩
  | encode => exact .of_refusing (execEncode_eq_next.2 (.inl ⟨hbusy, rfl⟩)) h
  | ckfill => exact .of_refusing (execCkfill_eq_next.2 (.inl ⟨hbusy, rfl⟩)) h
  | start => exact .of_refusing (execStart_eq_next.2 (.inl ⟨hbusy, rfl⟩)) h
  | txwr => exact .of_refusing (execTxwr_eq_next.2 (.inl ⟨hbusy, rfl⟩)) h
  | settxlen => exact .of_refusing (execSettxlen_eq_next.2 (.inl ⟨hbusy, rfl⟩)) h
  | setrxlen => exact .of_refusing (execSetrxlen_eq_next.2 (.inl ⟨hbusy, rfl⟩)) h
  | decode => exact .of_returning (execDecode_next s) h
  | ckverify n => exact .of_returning (execCkverify_next n s) h
  | txrd j => exact .of_returning (execTxrd_next j s) h
  | rxrd j => exact .of_returning (execRxrd_next j s) h
  | csrrd n => exact .of_returning (execCsrrd_next n s) h
  | txAccept => exact absurd rfl haccept
  | txAcceptLast => exact absurd rfl hlast
  | txError e => exact absurd rfl (herror e)
  | rxByte b =>
    obtain ⟨hread, _⟩ := execRxByte_eq_next.1 h
    cases hseq.symm.trans hread
  | rxError e =>
    obtain ⟨_, hread, _⟩ := execRxError_eq_next.1 h
    cases hseq.symm.trans hread
  | tickRead =>
    rcases execTickRead_eq_next.1 h with ⟨hread, _⟩ | ⟨_, hread, _⟩ <;> cases hseq.symm.trans hread
  | tickDelay =>
    rcases execTickDelay_eq_next.1 h with ⟨hdelay, _⟩ | ⟨_, hdelay, _⟩ <;> cases hseq.symm.trans hdelay
  | check =>
    obtain ⟨_, hcheck, _⟩ := execCheck_eq_next.1 h
    cases hseq.symm.trans hcheck
  | tickIdle =>
    obtain ⟨_, _, rfl⟩ := execTickIdle_eq_next.1 h
    exact .returning t t.ret

/-- What an instruction does to the wire in `WRITE`. -/
theorem exec_wire_in_write {i : Instr} {s t : State} (hseq : s.seq = .write) (h : exec i s = .next t) :
    t.wire = s.wire ∨
      ∃ b, (i = .txAccept ∨ i = .txAcceptLast) ∧ s.txbuf.read s.txidx.toNat = some b ∧ t.wire = s.wire ++ [b] := by
  by_cases haccept : i = .txAccept
  · subst haccept
    obtain ⟨b, _, _, hb, rfl⟩ := execTxAccept_eq_next.1 h
    exact .inr ⟨b, .inl rfl, hb, rfl⟩
  by_cases hlast : i = .txAcceptLast
  · subst hlast
    obtain ⟨b, _, _, hb, rfl⟩ := execTxAcceptLast_eq_next.1 h
    exact .inr ⟨b, .inr rfl, hb, rfl⟩
  by_cases herror : ∃ e, i = .txError e
  · obtain ⟨e, rfl⟩ := herror
    obtain ⟨bytes, _, _, rfl⟩ := execTxError_eq_next.1 h
    exact .inl (State.attemptFailed_wire _ _ _)
  · exact .inl (exec_onlyAnswers_in_write hseq haccept hlast (not_exists.1 herror) h).wire_eq

/-- Settles O49: outside `WRITE` an effect keeps the wire; in `WRITE` an instruction that sends is a row of TxAccept,
which no other event selects, and the inputs that are no instruction send nothing. -/
theorem wireTakesOnlyThePresentedByte : Obligations.WireTakesOnlyThePresentedByte := by
  intro s t h
  by_cases hseq : s.seq = .write
  · rcases step_eq_next h with
      ⟨_, hcheck, _⟩ |
        ⟨e, rest, hq, ⟨i, hd, hrun⟩ | ⟨rfl, rfl⟩ | ⟨level, _, rfl⟩ | ⟨op, _, rfl⟩ | ⟨n, v, _, rfl⟩⟩
    · cases hseq.symm.trans hcheck
    · rcases exec_wire_in_write (s := s.taking rest) hseq hrun with hkept | ⟨b, hi, hb, hwire⟩
      · exact .inl hkept
      · have he : e = .txAccept := event_of_decodeEvent_txAccept hd hi
        exact .inr ⟨b, hseq, by rw [hq, he]; rfl, hb, hwire⟩
    · exact .inl rfl
    · exact .inl rfl
    · exact .inl rfl
    · obtain ⟨x, y, r, hw, _⟩ := writeRegister_frame (s.taking rest) n v
      exact .inl (by rw [hw]; rfl)
  · rcases step_effect h with ⟨_, rest, rfl⟩ | ⟨rest, heff⟩
    · exact .inl rfl
    · exact .inl (heff.wire_unchanged hseq)

end Sys2Proof.Machine

/-! ## Memory: the engine's accesses (`spec/20_memory.md` R22, R62) -/

namespace Sys2Proof.Machine

/-! ### What a good state guarantees of the cells -/

theorem Memory.read_isSome_of_slice {m : Memory} {n i : Nat} {f : List Byte} (h : m.slice 0 n = some f) (hi : i < n) :
    ∃ b, m.read i = some b := by
  obtain ⟨hlen, hread⟩ := (Memory.slice_eq_some m 0 n f).1 h
  have hb : m.read i = f[i]? := by simpa using hread i hi
  exact ⟨f[i]'(hlen ▸ hi), by rw [hb, List.getElem?_eq_getElem]⟩

/-- In flight every command cell holds a value. -/
theorem InFlight.command {s : State} (h : InFlight s) : ∃ bytes, s.txbuf.slice 0 s.txlen.toNat = some bytes := by
  obtain ⟨_, hcommand, _⟩ := h
  exact hcommand

/-- The byte presented in `WRITE` has a value. -/
theorem Inv.presented {s : State} (h : Inv s) (hseq : s.seq = .write) : ∃ b, s.txbuf.read s.txidx.toNat = some b := by
  obtain ⟨hidx, _⟩ := h.writing hseq
  obtain ⟨_, hcommand⟩ := (h.inFlight_of_busy (by simp [hseq])).command
  exact Memory.read_isSome_of_slice hcommand hidx

/-! ### An engine step that is enabled in a good state answers -/

section
variable {s : State}

theorem Inv.execTxAccept_answers (h : Inv s) (hon : s.seq = .write ∧ s.txidx.toNat + 1 < s.txlen.toNat) :
    ∃ t, execTxAccept s = .next t := by
  obtain ⟨hseq, hmore⟩ := hon
  obtain ⟨b, hb⟩ := h.presented hseq
  exact ⟨_, execTxAccept_eq_next.2 ⟨b, hseq, hmore, hb, rfl⟩⟩

theorem Inv.execTxAcceptLast_answers (h : Inv s) (hon : s.seq = .write ∧ s.txidx.toNat + 1 = s.txlen.toNat) :
    ∃ t, execTxAcceptLast s = .next t := by
  obtain ⟨hseq, hlast⟩ := hon
  obtain ⟨b, hb⟩ := h.presented hseq
  exact ⟨_, execTxAcceptLast_eq_next.2 ⟨b, hseq, hlast, hb, rfl⟩⟩

theorem Inv.execTxError_answers (h : Inv s) (e : ChanErr) (hseq : s.seq = .write) :
    ∃ t, execTxError e s = .next t := by
  obtain ⟨bytes, hbytes⟩ := h.counted
  exact ⟨_, execTxError_eq_next.2 ⟨bytes, hseq, hbytes, rfl⟩⟩

/-- The cell at `RXCNT` exists, since `RXCNT` is below `RXLEN`. -/
theorem Inv.execRxByte_answers (h : Inv s) (b : Byte) (hseq : s.seq = .read) : ∃ t, execRxByte b s = .next t := by
  obtain ⟨_, hcnt, _⟩ := h.reading hseq
  obtain ⟨_, hrx⟩ := (h.inFlight_of_busy (by simp [hseq])).rxlen_le
  exact ⟨_, execRxByte_eq_next.2 ⟨hseq, by omega, rfl⟩⟩

theorem Inv.execRxError_answers (h : Inv s) (e : ChanErr) (hseq : s.seq = .read) :
    ∃ t, execRxError e s = .next t := by
  obtain ⟨bytes, hbytes⟩ := h.counted
  exact ⟨_, execRxError_eq_next.2 ⟨bytes, hseq, hbytes, rfl⟩⟩

theorem Inv.execTickRead_answers (h : Inv s) (hseq : s.seq = .read) : ∃ t, execTickRead s = .next t := by
  obtain ⟨bytes, hbytes⟩ := h.counted
  by_cases hmore : 1 < s.timer.toNat
  · exact ⟨_, execTickRead_eq_next.2 (.inl ⟨hseq, hmore, rfl⟩)⟩
  · exact ⟨_, execTickRead_eq_next.2 (.inr ⟨bytes, hseq, not_lt.1 hmore, hbytes, rfl⟩)⟩

theorem Inv.execTickDelay_answers (h : Inv s) (hseq : s.seq = .delay) : ∃ t, execTickDelay s = .next t := by
  obtain ⟨bytes, hbytes⟩ := (h.inFlight_of_busy (by simp [hseq])).command
  by_cases hmore : 1 < s.timer.toNat
  · exact ⟨_, execTickDelay_eq_next.2 (.inl ⟨hseq, hmore, rfl⟩)⟩
  · exact ⟨_, execTickDelay_eq_next.2 (.inr ⟨bytes, hseq, not_lt.1 hmore, hbytes, rfl⟩)⟩

theorem Inv.execCheck_answers (h : Inv s) (hon : s.seq = .check ∧ s.rxcnt = s.rxlen) :
    ∃ t, execCheck s = .next t := by
  obtain ⟨hseq, hfull⟩ := hon
  obtain ⟨bytes, hbytes⟩ := h.counted
  exact ⟨_, execCheck_eq_next.2 ⟨bytes, hseq, hfull, hfull ▸ hbytes, rfl⟩⟩

end

/-! ### No instruction faults -/

theorem ne_fault_of_next {a : Answer} (h : ∃ t, a = .next t) (r : Fault) : a ≠ .fault r := by
  obtain ⟨t, rfl⟩ := h
  simp

theorem ne_fault_of_returning {a : Answer} {s : State} (h : ∃ x, a = .next (s.returning x)) (r : Fault) :
    a ≠ .fault r := by
  obtain ⟨x, rfl⟩ := h
  simp

/-- An engine step answers where it is enabled and is no step elsewhere (log 3). -/
theorem ne_fault_of_enabled {a : Answer} {c : Prop} (hon : c → ∃ t, a = .next t)
    (hoff : ¬c → a = .refused .notEnabled) (r : Fault) : a ≠ .fault r := by
  by_cases hc : c
  · exact ne_fault_of_next (hon hc) r
  · simp [hoff hc]

theorem execEncode_ne_fault (src dst cmd : Byte) (p : List Byte) (s : State) (r : Fault) :
    execEncode src dst cmd p s ≠ .fault r := by
  unfold execEncode; split_ifs <;> simp

theorem execTxwr_ne_fault (i : Nat) (v : Byte) (s : State) (r : Fault) : execTxwr i v s ≠ .fault r := by
  unfold execTxwr; split_ifs <;> simp

/-- An unwritten body cell refuses (R143). -/
theorem execCkfill_ne_fault (s : State) (r : Fault) : execCkfill s ≠ .fault r := by
  unfold execCkfill
  cases s.txbuf.slice 1 (s.txlen.toNat - 2) <;> split_ifs <;> simp

/-- An unwritten command cell refuses (R163). -/
theorem execStart_ne_fault (s : State) (r : Fault) : execStart s ≠ .fault r := by
  unfold execStart
  cases s.txbuf.slice 0 s.txlen.toNat <;> split_ifs <;> simp

theorem issueRequest_ne_fault (cmd : Byte) (n : Nat) (s : State) (r : Fault) : issueRequest cmd n s ≠ .fault r := by
  by_cases hidle : s.seq = .idle
  · obtain ⟨_, _, _, hreq⟩ := issueRequest_idle cmd n s hidle
    exact hreq ▸ execStart_ne_fault _ r
  · simp [issueRequest_busy cmd n s hidle]

theorem execVersionResp_ne_fault (s : State) (r : Fault) : execVersionResp s ≠ .fault r := by
  rcases execVersionResp_next s with ha | ⟨v, _, hv⟩
  · exact ne_fault_of_returning ha r
  · simp [hv]

theorem execNumHeatersResp_ne_fault (s : State) (r : Fault) : execNumHeatersResp s ≠ .fault r := by
  rcases execNumHeatersResp_next s with ha | ⟨n, _, hn⟩
  · exact ne_fault_of_returning ha r
  · simp [hn]

/-- In a good state no instruction faults. -/
theorem Inv.exec_ne_fault {s : State} (h : Inv s) (i : Instr) (r : Fault) : exec i s ≠ .fault r := by
  cases i with
  | getVersion => exact issueRequest_ne_fault _ _ s r
  | numHeaters => exact issueRequest_ne_fault _ _ s r
  | forceReboot => exact ne_fault_of_next ⟨_, rfl⟩ r
  | forceReset => exact ne_fault_of_next ⟨_, rfl⟩ r
  | setPwm => exact ne_fault_of_next ⟨_, rfl⟩ r
  | readVersion => exact ne_fault_of_next ⟨_, rfl⟩ r
  | readReport => exact ne_fault_of_next ⟨_, rfl⟩ r
  | versionResp => exact execVersionResp_ne_fault s r
  | numHeatersResp => exact execNumHeatersResp_ne_fault s r
  | encode => exact execEncode_ne_fault _ _ _ _ s r
  | ckfill => exact execCkfill_ne_fault s r
  | start => exact execStart_ne_fault s r
  | decode => exact ne_fault_of_returning (execDecode_next s) r
  | ckverify n => exact ne_fault_of_returning (execCkverify_next n s) r
  | txwr => exact execTxwr_ne_fault _ _ s r
  | txrd j => exact ne_fault_of_returning (execTxrd_next j s) r
  | rxrd j => exact ne_fault_of_returning (execRxrd_next j s) r
  | settxlen => exact ne_fault_of_next ⟨_, rfl⟩ r
  | setrxlen => exact ne_fault_of_next ⟨_, rfl⟩ r
  | csrrd n => exact ne_fault_of_returning (execCsrrd_next n s) r
  | txAccept => exact ne_fault_of_enabled h.execTxAccept_answers (fun hoff => if_neg hoff) r
  | txAcceptLast => exact ne_fault_of_enabled h.execTxAcceptLast_answers (fun hoff => if_neg hoff) r
  | txError e => exact ne_fault_of_enabled (h.execTxError_answers e) (fun hoff => if_neg hoff) r
  | rxByte b => exact ne_fault_of_enabled (h.execRxByte_answers b) (fun hoff => if_neg hoff) r
  | rxError e => exact ne_fault_of_enabled (h.execRxError_answers e) (fun hoff => if_neg hoff) r
  | tickRead => exact ne_fault_of_enabled h.execTickRead_answers (fun hoff => if_neg hoff) r
  | tickDelay => exact ne_fault_of_enabled h.execTickDelay_answers (fun hoff => if_neg hoff) r
  | check => exact ne_fault_of_enabled h.execCheck_answers (fun hoff => if_neg hoff) r
  | tickIdle =>
    change execTickIdle s ≠ .fault r
    unfold execTickIdle; split_ifs <;> simp

/-- Settles O53: a step that faults runs an instruction that faults, in the state with its event taken off, of which
the invariants say the same. -/
theorem engineAccessesAreInRange : Obligations.EngineAccessesAreInRange := by
  intro s r hs hstep
  rcases step_eq_fault hstep with hcheck | ⟨i, rest, hrun⟩
  · exact hs.exec_ne_fault .check r hcheck
  · have htaking : Inv (s.taking rest) := hs.outside s.chanOpen s.wire s.session s.ret rest
    exact htaking.exec_ne_fault i r hrun

end Sys2Proof.Machine

/-! ## Memory: an attempt that is answered (`spec/20_memory.md` R64, `spec/42_transaction.md` R178) -/

namespace Sys2Proof.Machine

/-! ### The steps of an attempt -/

section
variable {s : State} {b : Byte} {rest : List Event}

theorem step_txAccept (hq : s.schedule = .txAccept :: rest) (hseq : s.seq = .write)
    (hb : s.txbuf.read s.txidx.toNat = some b) (hmore : s.txidx.toNat + 1 < s.txlen.toNat) :
    step s = .next ((s.taking rest).sent b) := by
  have hd : decodeEvent (rowContext s) .txAccept = .ok .txAccept := by simp [decodeEvent, rowContext, hmore.ne]
  exact (step_run hq hd).trans (execTxAccept_eq_next.2 ⟨b, hseq, hmore, hb, rfl⟩)

theorem step_txAcceptLast (hq : s.schedule = .txAccept :: rest) (hseq : s.seq = .write)
    (hb : s.txbuf.read s.txidx.toNat = some b) (hlast : s.txidx.toNat + 1 = s.txlen.toNat) :
    step s = .next ((s.taking rest).sent b).enterRead := by
  have hd : decodeEvent (rowContext s) .txAccept = .ok .txAcceptLast := by simp [decodeEvent, rowContext, hlast]
  exact (step_run hq hd).trans (execTxAcceptLast_eq_next.2 ⟨b, hseq, hlast, hb, rfl⟩)

theorem step_rxByte (hq : s.schedule = .rxByte b :: rest) (hseq : s.seq = .read) (hcell : s.rxcnt.toNat < 258) :
    step s = .next ((s.taking rest).received b) :=
  (step_run hq rfl).trans (execRxByte_eq_next.2 ⟨hseq, hcell, rfl⟩)

/-- A tick in `READ` that is not the last. -/
theorem step_tick_read (hq : s.schedule = .tick :: rest) (hseq : s.seq = .read) (hmore : 1 < s.timer.toNat) :
    step s = .next ((s.taking rest).putTimer (s.timer - 1#16)) := by
  have hd : decodeEvent (rowContext s) .tick = .ok .tickRead := by simp [decodeEvent, rowContext, tickRow, hseq]
  exact (step_run hq hd).trans (execTickRead_eq_next.2 (.inl ⟨hseq, hmore, rfl⟩))

/-- A tick in `CHECK` changes nothing (R177). -/
theorem step_tick_check (hq : s.schedule = .tick :: rest) (hseq : s.seq = .check) :
    step s = .next (s.taking rest) := by
  have hd : decodeEvent (rowContext s) .tick = .ok .tickIdle := by simp [decodeEvent, rowContext, tickRow, hseq]
  exact (step_run hq hd).trans (execTickIdle_eq_next.2 ⟨by simp [hseq], by simp [hseq], rfl⟩)

theorem step_check {f : List Byte} (hq : s.schedule = .check :: rest) (hseq : s.seq = .check)
    (hfull : s.rxcnt = s.rxlen) (hf : s.rxbuf.slice 0 s.rxlen.toNat = some f) :
    step s = .next (((s.taking rest).checked f).complete (checkVerdict f)) :=
  (step_run hq rfl).trans (execCheck_eq_next.2 ⟨f, hseq, hfull, hf, rfl⟩)

end

/-! ### The write phase -/

/-- The rest `bytes` of the command are sent, and `READ` is entered (R167, R168). -/
def State.commandSent (s : State) (bytes : List Byte) : State :=
  State.enterRead { s with wire := s.wire ++ bytes, txidx := s.txlen }

theorem State.sent_enterRead {s : State} (b : Byte) (hlast : s.txidx.toNat + 1 = s.txlen.toNat) :
    (s.sent b).enterRead = s.commandSent [b] := by
  simp [State.sent, State.commandSent, hlast]

theorem State.sent_commandSent (s : State) (b : Byte) (bytes : List Byte) :
    (s.sent b).commandSent bytes = s.commandSent (b :: bytes) := by
  simp [State.sent, State.commandSent, State.enterRead]

/-- The first byte of a slice, and the slice of the others. -/
theorem Memory.slice_eq_some_cons {m : Memory} {i n : Nat} {b : Byte} {r : List Byte}
    (h : m.slice i (n + 1) = some (b :: r)) : m.read i = some b ∧ m.slice (i + 1) n = some r := by
  rw [Memory.slice_succ] at h
  obtain ⟨b', hb, hr⟩ := Option.bind_eq_some_iff.1 h
  obtain ⟨r', hr', heq⟩ := Option.map_eq_some_iff.1 hr
  cases heq
  exact ⟨hb, hr'⟩

/-- A channel that takes every byte still to be sent. -/
theorem run_accepts {s : State} {b : Byte} {bytes : List Byte} {rest : List Event} (hseq : s.seq = .write)
    (hlen : s.txidx.toNat + (bytes.length + 1) = s.txlen.toNat)
    (hcommand : s.txbuf.slice s.txidx.toNat (bytes.length + 1) = some (b :: bytes))
    (hq : s.schedule = accepts (bytes.length + 1) ++ rest) :
    run (bytes.length + 1) s = .next ((s.commandSent (b :: bytes)).taking rest) := by
  induction bytes generalizing s b with
  | nil =>
    obtain ⟨hb, _⟩ := Memory.slice_eq_some_cons hcommand
    have hsent := State.sent_enterRead (s := s.taking rest) b hlen
    exact run_of_next ((step_txAcceptLast hq hseq hb hlen).trans (congrArg _ hsent))
  | cons b' bytes ih =>
    obtain ⟨hb, hnext⟩ := Memory.slice_eq_some_cons hcommand
    rw [List.length_cons] at hlen hnext
    let u : State := (s.taking (accepts (bytes.length + 1) ++ rest)).sent b
    have hstep : step s = .next u := step_txAccept hq hseq hb (by omega)
    have hidx : u.txidx.toNat = s.txidx.toNat + 1 := by
      have := s.txlen.isLt
      simp only [u, State.sent_txidx, State.taking_txidx, BitVec.toNat_ofNat]; omega
    have hleft : u.txidx.toNat + (bytes.length + 1) = s.txlen.toNat := by omega
    have hrun := ih (s := u) hseq hleft (hidx ▸ hnext) rfl
    rw [State.sent_commandSent] at hrun
    exact (run_of_next hstep).trans hrun

/-! ### The read phase -/

/-- `SEQ` of a read after `k` bytes (R170). -/
def readSeq (s : State) (k : Nat) : Seq := if k = s.rxlen.toNat then .check else .read

/-- The bytes `r` are stored and counted, with what the timer and the accumulator hold by then (R170). -/
def State.answered (s : State) (r : List Byte) (timer : Word16) (acc : Byte) : State :=
  { s with
    rxbuf := s.rxbuf.writeList s.rxcnt.toNat r, rxcnt := BitVec.ofNat 9 (s.rxcnt.toNat + r.length), ckAcc := acc,
    timer := timer, seq := readSeq s (s.rxcnt.toNat + r.length) }

theorem State.answered_nil {s : State} (hseq : s.seq = readSeq s s.rxcnt.toNat) :
    s.answered [] s.timer s.ckAcc = s := by
  simp [State.answered, ← hseq, Memory.writeList]

theorem State.received_answered {s : State} (b : Byte) (r : List Byte) (timer : Word16) (acc : Byte)
    (hcnt : (s.received b).rxcnt.toNat = s.rxcnt.toNat + 1) :
    (s.received b).answered r timer acc = s.answered (b :: r) timer acc := by
  have hadd : s.rxcnt.toNat + (r.length + 1) = s.rxcnt.toNat + 1 + r.length := by omega
  simp only [State.answered, hcnt, List.length_cons, hadd, Memory.writeList]
  rfl

/-- A read that can take `k` more bytes and `n` more ticks without timing out. -/
structure ReadsOn (s : State) (k n : Nat) : Prop where
  /-- The response is complete or not, and `SEQ` says so (R170). -/
  seq : s.seq = readSeq s s.rxcnt.toNat
  /-- The bytes are no more than expected. -/
  room : s.rxcnt.toNat + k ≤ s.rxlen.toNat
  /-- Every expected byte has a cell (R62). -/
  cells : s.rxlen.toNat ≤ 258
  /-- The timer outlasts the ticks (R172). -/
  timer : n < s.timer.toNat

section
variable {s : State} {k n : Nat}

theorem ReadsOn.seq_read (h : ReadsOn s k n) (hopen : s.rxcnt.toNat ≠ s.rxlen.toNat) : s.seq = .read :=
  h.seq.trans (if_neg hopen)

theorem ReadsOn.seq_check (h : ReadsOn s k n) (hfull : s.rxcnt.toNat = s.rxlen.toNat) : s.seq = .check :=
  h.seq.trans (if_pos hfull)

theorem ReadsOn.taking (h : ReadsOn s k n) (rest : List Event) : ReadsOn (s.taking rest) k n :=
  ⟨h.seq, h.room, h.cells, h.timer⟩

theorem ReadsOn.received_rxcnt (h : ReadsOn s (k + 1) n) (b : Byte) :
    (s.received b).rxcnt.toNat = s.rxcnt.toNat + 1 := by
  have := h.room
  have := h.cells
  rw [State.received_rxcnt, BitVec.toNat_ofNat]; omega

theorem ReadsOn.received (h : ReadsOn s (k + 1) n) (b : Byte) : ReadsOn (s.received b) k n where
  seq := by
    have hread : s.seq = .read := h.seq_read (by have := h.room; omega)
    rw [h.received_rxcnt, State.received_seq, hread]
    rfl
  room := by rw [h.received_rxcnt, State.received_rxlen]; have := h.room; omega
  cells := h.cells
  timer := h.timer

theorem ReadsOn.ticked_timer (h : ReadsOn s k (n + 1)) : (s.timer - 1#16).toNat = s.timer.toNat - 1 := by
  have := h.timer
  bv_omega

theorem ReadsOn.ticked (h : ReadsOn s k (n + 1)) : ReadsOn (s.putTimer (s.timer - 1#16)) k n where
  seq := h.seq
  room := h.room
  cells := h.cells
  timer := by rw [State.putTimer_timer, h.ticked_timer]; have := h.timer; omega

/-- A tick after the last byte is not counted. -/
theorem ReadsOn.ignored (h : ReadsOn s k (n + 1)) : ReadsOn s k n :=
  ⟨h.seq, h.room, h.cells, Nat.lt_of_succ_lt h.timer⟩

end

/-- In a read, bytes that do not exceed `RXLEN` are all stored in whatever way fewer ticks than the timer holds fall
among them, and as long as a byte is missing every tick has been counted. -/
theorem run_answer {s : State} {r : List Byte} {n : Nat} {q rest : List Event} (hm : Merged (delivers r) n q)
    (hs : ReadsOn s r.length n) (hq : s.schedule = q ++ rest) :
    ∃ timer acc, run q.length s = .next ((s.answered r timer acc).taking rest) ∧
      (s.rxcnt.toNat + r.length < s.rxlen.toNat → timer.toNat + n = s.timer.toNat) := by
  generalize hes : delivers r = es at hm
  induction hm generalizing s r with
  | nil =>
    obtain rfl : r = [] := List.map_eq_nil_iff.1 hes
    refine ⟨s.timer, s.ckAcc, ?_, fun _ => rfl⟩
    rw [State.answered_nil hs.seq]
    cases hq
    rfl
  | @event es q n e hm ih =>
    cases r with
    | nil => cases hes
    | cons b r =>
      obtain ⟨rfl, hes'⟩ := List.cons.inj hes
      rw [List.length_cons] at hs
      have hroom := hs.room
      have hcells := hs.cells
      have hstep : step s = .next ((s.taking (q ++ rest)).received b) :=
        step_rxByte hq (hs.seq_read (by omega)) (by omega)
      have hcnt := (hs.taking (q ++ rest)).received_rxcnt b
      obtain ⟨timer, acc, hrun, htimer⟩ := ih ((hs.taking _).received b) rfl hes'
      refine ⟨timer, acc, ?run, fun hlt => htimer ?short⟩
      case run =>
        rw [State.received_answered _ _ _ _ hcnt] at hrun
        exact (run_of_next hstep).trans hrun
      case short =>
        rw [hcnt, Nat.add_assoc, Nat.add_comm 1]
        exact hlt
  | @tick es q n hm ih =>
    by_cases hfull : s.rxcnt.toNat = s.rxlen.toNat
    · have hstep : step s = .next (s.taking (q ++ rest)) := step_tick_check hq (hs.seq_check hfull)
      obtain ⟨timer, acc, hrun, _⟩ := ih (hs.ignored.taking (q ++ rest)) rfl hes
      exact ⟨timer, acc, (run_of_next hstep).trans hrun, fun hlt => by omega⟩
    · have hmore := hs.timer
      have hstep : step s = .next ((s.taking (q ++ rest)).putTimer (s.timer - 1#16)) :=
        step_tick_read hq (hs.seq_read hfull) (by omega)
      obtain ⟨timer, acc, hrun, htimer⟩ := ih ((hs.taking (q ++ rest)).ticked) rfl hes
      refine ⟨timer, acc, (run_of_next hstep).trans hrun, fun hlt => ?_⟩
      have hleft : timer.toNat + n = (s.timer - 1#16).toNat := htimer hlt
      rw [hs.ticked_timer] at hleft
      omega

/-! ### The whole attempt -/

/-- From the start of its write phase an attempt sends the whole command. -/
theorem Inv.run_command {s : State} {req : List Byte} {rest : List Event} (h : Inv s) (hseq : s.seq = .write)
    (hidx : s.txidx = 0#9) (hreq : s.txbuf.slice 0 s.txlen.toNat = some req)
    (hq : s.schedule = accepts s.txlen.toNat ++ rest) :
    run s.txlen.toNat s = .next ((s.commandSent req).taking rest) := by
  obtain ⟨htx, _⟩ := h.writing hseq
  have hlen : req.length = s.txlen.toNat := Memory.slice_length hreq
  cases req with
  | nil => simp [← hlen] at htx
  | cons b bytes =>
    rw [List.length_cons] at hlen
    rw [← hlen] at hreq hq ⊢
    exact run_accepts hseq (by simp [hidx, hlen]) (by rw [hidx]; exact hreq) hq

/-- Where the command has been sent, a read of `RXLEN` bytes begins with `T_RD` ticks on the timer (R168). -/
theorem Inv.commandSent_readsOn {s : State} {bytes : List Byte} {k n : Nat} (h : Inv s) (hseq : s.seq = .write)
    (hroom : k ≤ s.rxlen.toNat) (hticks : n < Config.tRd.toNat) : ReadsOn (s.commandSent bytes) k n := by
  obtain ⟨hrx, hcells⟩ := (h.inFlight_of_busy (by simp [hseq])).rxlen_le
  have hopen : 0 ≠ s.rxlen.toNat := by omega
  exact ⟨(if_neg hopen).symm, (Nat.zero_add k).symm ▸ hroom, hcells, hticks⟩

/-- Settles O57: the command is sent by `Inv.run_command`, the answer is stored by `run_answer`, and the check decides
by its trailer. -/
theorem answeredAttemptEndsByTheTrailer : Obligations.AnsweredAttemptEndsByTheTrailer := by
  intro s req r n q rest hinv hseq hidx hreq hlen hticks hm hq
  let sent : State := (s.commandSent req).taking (q ++ .check :: rest)
  have hsent : run s.txlen.toNat s = .next sent := hinv.run_command hseq hidx hreq hq
  have hread : ReadsOn sent r.length n := (hinv.commandSent_readsOn hseq hlen.le hticks).taking _
  obtain ⟨timer, acc, hanswer, _⟩ := run_answer hm hread rfl
  have hcnt : BitVec.ofNat 9 (0 + r.length) = s.rxlen := by
    rw [Nat.zero_add, hlen, BitVec.ofNat_toNat, BitVec.setWidth_eq]
  have hbytes : (s.rxbuf.writeList 0 r).slice 0 s.rxlen.toNat = some r := hlen ▸ Memory.slice_writeList r s.rxbuf 0
  have hcheck := step_check (s := (sent.answered r timer acc).taking (.check :: rest)) rfl
    (if_pos ((Nat.zero_add _).trans hlen)) hcnt hbytes
  have hrun := (run_add hsent).trans ((run_add hanswer).trans (run_of_next (k := 0) hcheck))
  rw [Nat.add_assoc]
  exact ⟨_, hrun, rfl, rfl, rfl, rfl, hbytes, hcnt, rfl, rfl, rfl, rfl⟩

end Sys2Proof.Machine

/-! ## Encoding: the operands of a host word, written and read (`spec/30_encoding.md` R104) -/

namespace Sys2Proof

open Machine (be16)

theorem word16Bytes_be16 (hi lo : Byte) : word16Bytes (be16 hi lo) = [hi, lo] := by
  simp [word16Bytes]

/-- A natural operand that came from 16 bits is written as those bits. -/
theorem natBytes_toNat (n : Word16) : natBytes n.toNat = word16Bytes n := by
  simp [natBytes]

/-- A natural operand that fits its field is a 16-bit value. -/
theorem exists_word16_of_lt {n : Nat} (h : n < 65536) : ∃ x : Word16, x.toNat = n :=
  ⟨BitVec.ofNat 16 n, Nat.mod_eq_of_lt h⟩

theorem takeBytes_eq_some_iff {n : Nat} {bytes front rest : List Byte} :
    takeBytes n bytes = some (front, rest) ↔ front.length = n ∧ bytes = front ++ rest := by
  induction n generalizing bytes front with
  | zero =>
    rw [takeBytes, List.length_eq_zero_iff]
    grind
  | succ n ih =>
    match bytes, front with
    | [], [] | [], _ :: _ => simp [takeBytes]
    | b :: r, [] => rw [takeBytes]; split <;> simp
    | b :: r, b' :: front =>
      have hsplit : takeBytes (n + 1) (b :: r) = some (b' :: front, rest) ↔
          b = b' ∧ takeBytes n r = some (front, rest) := by
        rw [takeBytes]; split <;> simp_all [and_assoc]
      rw [hsplit, ih]
      grind

theorem operand16_eq_ok_iff {k : Word16 → Instr} {args rest : List Byte} {i : Instr} :
    operand16 k args = .ok (i, rest) ↔ ∃ n, i = k n ∧ args = word16Bytes n ++ rest := by
  constructor
  · intro h
    unfold operand16 at h
    split at h <;> cases h
    exact ⟨_, rfl, by rw [word16Bytes_be16]; rfl⟩
  · rintro ⟨n, rfl, rfl⟩
    simp [word16Bytes, operand16]

/-- The same for an operand that is a natural number of 16 bits. -/
theorem operand16_nat_eq_ok_iff (k : Nat → Instr) {args rest : List Byte} {i : Instr} :
    operand16 (fun n => k n.toNat) args = .ok (i, rest) ↔ ∃ n, n < 65536 ∧ i = k n ∧ args = natBytes n ++ rest := by
  rw [operand16_eq_ok_iff]
  constructor
  · rintro ⟨x, rfl, rfl⟩
    exact ⟨x.toNat, x.isLt, rfl, by rw [natBytes_toNat]⟩
  · rintro ⟨n, hn, rfl, rfl⟩
    obtain ⟨x, rfl⟩ := exists_word16_of_lt hn
    exact ⟨x, rfl, by rw [natBytes_toNat]⟩

theorem txwrOperands_eq_ok_iff {args rest : List Byte} {i : Instr} :
    txwrOperands args = .ok (i, rest) ↔
      ∃ (n : Nat) (v : Byte), n < 65536 ∧ i = .txwr n v ∧ args = natBytes n ++ [v] ++ rest := by
  constructor
  · intro h
    unfold txwrOperands at h
    split at h <;> cases h
    exact ⟨_, _, BitVec.isLt _, rfl, by rw [natBytes_toNat, word16Bytes_be16]; rfl⟩
  · rintro ⟨n, v, hn, rfl, rfl⟩
    obtain ⟨x, rfl⟩ := exists_word16_of_lt hn
    simp [natBytes_toNat, word16Bytes, txwrOperands]

theorem encodeOperands_eq_ok_iff {args rest : List Byte} {i : Instr} :
    encodeOperands args = .ok (i, rest) ↔
      ∃ (src dst cmd : Byte) (payload : List Byte), payload.length < 65536 ∧ i = .encode src dst cmd payload ∧
        args = [src, dst, cmd] ++ natBytes payload.length ++ payload ++ rest := by
  constructor
  · intro h
    unfold encodeOperands at h
    split at h
    · split at h
      · next htake =>
        cases h
        obtain ⟨hlen, rfl⟩ := takeBytes_eq_some_iff.1 htake
        exact ⟨_, _, _, _, hlen ▸ BitVec.isLt _, rfl, by rw [hlen, natBytes_toNat, word16Bytes_be16]; simp⟩
      · cases h
    · cases h
  · rintro ⟨src, dst, cmd, payload, hlt, rfl, rfl⟩
    obtain ⟨x, hx⟩ := exists_word16_of_lt hlt
    have htake : takeBytes x.toNat (payload ++ rest) = some (payload, rest) := takeBytes_eq_some_iff.2 ⟨hx.symm, rfl⟩
    rw [← hx, natBytes_toNat]
    simp [word16Bytes, encodeOperands, htake]

/-! ### A host word and its instruction -/

/-- What the decoder reads as a host operation is a well-formed instruction's own word, and what follows that word is
handed on. -/
theorem encode_of_decodeHost {w rest : List Byte} {i : Instr} (h : decodeHost w = .ok (i, rest)) :
    i.wellFormed = true ∧ ∃ w', encode i = .host w' ∧ w = w' ++ rest := by
  cases w with
  | nil => cases h
  | cons op args =>
    have hop {k : Nat} (hk : op.toNat = k) : op = BitVec.ofNat 8 k := by simp [← hk]
    change decodeOperands op args = _ at h
    unfold decodeOperands at h
    split at h
    case h_1 hk =>
      obtain ⟨src, dst, cmd, payload, hlt, rfl, rfl⟩ := encodeOperands_eq_ok_iff.1 h
      exact ⟨decide_eq_true hlt, _, rfl, by rw [hop hk]; rfl⟩
    case h_2 hk | h_3 hk | h_4 hk => cases h; exact ⟨rfl, _, rfl, by rw [hop hk]; rfl⟩
    case h_5 hk | h_7 hk | h_8 hk =>
      obtain ⟨n, hlt, rfl, rfl⟩ := (operand16_nat_eq_ok_iff _).1 h
      exact ⟨decide_eq_true hlt, _, rfl, by rw [hop hk]; rfl⟩
    case h_6 hk =>
      obtain ⟨n, v, hlt, rfl, rfl⟩ := txwrOperands_eq_ok_iff.1 h
      exact ⟨decide_eq_true hlt, _, rfl, by rw [hop hk]; rfl⟩
    case h_9 hk | h_10 hk | h_11 hk =>
      obtain ⟨n, rfl, rfl⟩ := operand16_eq_ok_iff.1 h
      exact ⟨rfl, _, rfl, by rw [hop hk]; rfl⟩
    case h_12 => cases h

/-- Settles O2: the number selects the operands' reader, and each reader undoes what `encode` wrote. -/
theorem hostWordIsReadUpToItsEnd : Obligations.HostWordIsReadUpToItsEnd := by
  intro i w rest hwf henc
  cases i
  case encode src dst cmd payload =>
    cases henc
    exact encodeOperands_eq_ok_iff.2 ⟨src, dst, cmd, payload, of_decide_eq_true hwf, rfl, rfl⟩
  case ckfill | start | decode => cases henc; rfl
  case ckverify n => cases henc; exact (operand16_nat_eq_ok_iff .ckverify).2 ⟨n, of_decide_eq_true hwf, rfl, rfl⟩
  case txwr n v => cases henc; exact txwrOperands_eq_ok_iff.2 ⟨n, v, of_decide_eq_true hwf, rfl, rfl⟩
  case txrd n => cases henc; exact (operand16_nat_eq_ok_iff .txrd).2 ⟨n, of_decide_eq_true hwf, rfl, rfl⟩
  case rxrd n => cases henc; exact (operand16_nat_eq_ok_iff .rxrd).2 ⟨n, of_decide_eq_true hwf, rfl, rfl⟩
  case settxlen n | setrxlen n | csrrd n => cases henc; exact operand16_eq_ok_iff.2 ⟨n, rfl, rfl⟩
  all_goals cases henc

/-- The event of a well-formed host operation, whose word has nothing after it. -/
theorem decodeEvent_of_encode_eq_host {i : Instr} {w : List Byte} (ctx : RowContext) (hwf : i.wellFormed = true)
    (henc : encode i = .host w) : decodeEvent ctx (encode i) = .ok i := by
  have h : decodeHost (w ++ []) = .ok (i, []) := hostWordIsReadUpToItsEnd i w [] hwf henc
  rw [List.append_nil] at h
  simp only [henc, decodeEvent, h]

/-- Settles O4: a number up to 10 is one run of the decoder; from 11 on the word is `decodeOperands_unused`. -/
theorem operationNumbersDecodeAsTabled : Obligations.OperationNumbersDecodeAsTabled := by
  refine ⟨?used, ?unusedWord, ?unused⟩
  case used => exact ⟨rfl, rfl, rfl, rfl, rfl, rfl, rfl, rfl, rfl, rfl, rfl⟩
  case unusedWord =>
    intro w hlow hhigh
    have hop : 11 ≤ (BitVec.ofNat 8 w).toNat := by rwa [BitVec.toNat_ofNat, Nat.mod_eq_of_lt hhigh]
    have hd : decodeEvent ⟨.idle, false⟩ (tableEvent 8 w) = .error (.noSuchOperation (BitVec.ofNat 8 w)) :=
      decodeEvent_unused hop _ _
    simp only [decodeTableWord, hd]
  case unused => exact fun op args hop => decodeOperands_unused hop args

end Sys2Proof

/-! ## Encoding: request frames (`spec/30_encoding.md` R92, R97 to R99) -/

namespace Sys2Proof.Machine

/-- The signed sum of R140, negated, is the accumulator of R146, negated. -/
theorem bodyCksum_eq_neg_accSum (body : List Byte) : bodyCksum body = -accSum body := by
  induction body with
  | nil => rfl
  | cons b r ih =>
    have hr : BitVec.ofInt 8 (signedSum r) = accSum r := by
      rwa [bodyCksum, BitVec.ofInt_neg, BitVec.neg_inj] at ih
    rw [bodyCksum, BitVec.ofInt_neg, signedSum, s8, BitVec.ofInt_add, BitVec.ofInt_toInt, hr, accSum]

theorem bodyCksum_request (c : Byte) : bodyCksum [0x03#8, 0x01#8, 0x02#8, c] = 250#8 - c := by
  simp only [bodyCksum_eq_neg_accSum, accSum]
  bv_omega

/-- A short request, byte by byte (R92, R99, R211). -/
theorem requestFrame_eq (c : Byte) : requestFrame c = [Config.som, 0x03#8, 0x01#8, 0x02#8, c, 250#8 - c] := by
  rw [← bodyCksum_request]; rfl

/-- Well-formedness of six bytes (R97). -/
theorem isWellFormedFrame_six_iff {a l src dst c k : Byte} :
    isWellFormedFrame [a, l, src, dst, c, k] = true ↔ a = Config.som ∧ l = 0x03#8 ∧ k = bodyCksum [l, src, dst, c] := by
  have hl : l.toNat + 3 = 6 ↔ l = 0x03#8 := by bv_omega
  have hk : cksum [a, l, src, dst, c, k] = bodyCksum [l, src, dst, c] := rfl
  simp [isWellFormedFrame, isSomOk, isLenOk, isCkOk, byteAt, hl, hk, and_assoc]

theorem isWellFormedFrame_requestFrame (c : Byte) : isWellFormedFrame (requestFrame c) = true :=
  isWellFormedFrame_six_iff.2 ⟨rfl, rfl, rfl⟩

/-- The requests are exactly the well-formed six bytes from `DEV_PC` to `DEV_DELTA`. -/
theorem wellFormedRequest_iff {f : List Byte} :
    f.length = 6 ∧ isWellFormedFrame f = true ∧ f[2]? = some 0x01#8 ∧ f[3]? = some 0x02#8 ↔
      ∃ c, f = requestFrame c := by
  constructor
  · rintro ⟨hlen, hwf, hsrc, hdst⟩
    match f, hlen with
    | [a, l, src, dst, c, k], _ =>
      obtain ⟨rfl, rfl, rfl⟩ := isWellFormedFrame_six_iff.1 hwf
      cases hsrc
      cases hdst
      exact ⟨c, rfl⟩
  · rintro ⟨c, rfl⟩
    exact ⟨rfl, isWellFormedFrame_requestFrame c, rfl, rfl⟩

end Sys2Proof.Machine

namespace Sys2Proof

open Machine

/-! ### Frames decoded -/

/-- A request is read by its code alone (R98). -/
theorem decodeFrame_requestFrame (c : Byte) :
    decodeFrame (requestFrame c) =
      if c = Config.cmdGetVersion then .ok .getVersion
      else if c = Config.cmdNumHeaters then .ok .numHeaters
      else if c = Config.cmdForceReboot then .ok .forceReboot
      else if c = Config.cmdForceReset then .ok .forceReset
      else if c = Config.cmdSetPwm then .error .setPwmFrame
      else .error .unknownCommand :=
  if_pos ⟨isWellFormedFrame_requestFrame c, rfl, rfl⟩

theorem decodeFrame_of_not_request {f : List Byte} (h : ∀ c, f ≠ requestFrame c) :
    decodeFrame f = .error .notARequest := by
  unfold decodeFrame
  split
  · next a l src dst c k =>
    refine if_neg fun ⟨hwf, hsrc, hdst⟩ => ?_
    obtain ⟨c', hc'⟩ := wellFormedRequest_iff.1 ⟨rfl, hwf, congrArg some hsrc, congrArg some hdst⟩
    exact h c' hc'
  · rfl

/-- The five codes are pairwise distinct (R9), so each request has its own row. -/
theorem decodeFrame_commands :
    decodeFrame (requestFrame Config.cmdGetVersion) = .ok .getVersion ∧
      decodeFrame (requestFrame Config.cmdNumHeaters) = .ok .numHeaters ∧
      decodeFrame (requestFrame Config.cmdForceReboot) = .ok .forceReboot ∧
      decodeFrame (requestFrame Config.cmdForceReset) = .ok .forceReset ∧
      decodeFrame (requestFrame Config.cmdSetPwm) = .error .setPwmFrame := by
  simp [decodeFrame_requestFrame, Config.cmdGetVersion, Config.cmdNumHeaters, Config.cmdForceReboot,
    Config.cmdForceReset, Config.cmdSetPwm]

/-- A frame that decodes is the request of its row. -/
theorem request_of_decodeFrame {f : List Byte} {i : Instr} (h : decodeFrame f = .ok i) :
    ∃ c, f = requestFrame c ∧
      ((i = .getVersion ∧ c = Config.cmdGetVersion) ∨ (i = .numHeaters ∧ c = Config.cmdNumHeaters) ∨
        (i = .forceReboot ∧ c = Config.cmdForceReboot) ∨ (i = .forceReset ∧ c = Config.cmdForceReset)) := by
  by_cases hf : ∃ c, f = requestFrame c
  · obtain ⟨c, rfl⟩ := hf
    refine ⟨c, rfl, ?_⟩
    rw [decodeFrame_requestFrame] at h
    split_ifs at h <;> cases h <;> simp_all
  · rw [decodeFrame_of_not_request (not_exists.1 hf)] at h
    cases h

/-- Settles O3: for host words `encode_of_decodeHost`; for frames, the requests are what decodes, and each is read by
its code. -/
theorem wordsAndFramesHaveOneReading : Obligations.WordsAndFramesHaveOneReading := by
  refine ⟨fun _ _ _ => encode_of_decodeHost, ?frame, ?notARequest, fun c => ⟨?setPwm, ?unknown⟩⟩
  case frame =>
    intro f i h
    obtain ⟨c, rfl, hrow⟩ := request_of_decodeFrame h
    refine ⟨?_, c, requestFrame_eq c, hrow⟩
    obtain ⟨rfl, rfl⟩ | ⟨rfl, rfl⟩ | ⟨rfl, rfl⟩ | ⟨rfl, rfl⟩ := hrow <;> rfl
  case notARequest =>
    exact fun f hf => decodeFrame_of_not_request fun c hc => hf (wellFormedRequest_iff.2 ⟨c, hc⟩)
  case setPwm =>
    rintro rfl
    obtain ⟨-, -, -, -, hpwm⟩ := decodeFrame_commands
    rwa [← requestFrame_eq]
  case unknown =>
    intro hversion hheaters hreboot hreset hpwm
    rw [← requestFrame_eq, decodeFrame_requestFrame, if_neg hversion, if_neg hheaters, if_neg hreboot, if_neg hreset,
      if_neg hpwm]

/-- Settles O1: a host operation by its word, a request by its frame, a row of `TxAccept` or `Tick` by the context;
every other instruction is the only one of its event. -/
theorem encodedInstructionDecodesBack : Obligations.EncodedInstructionDecodesBack := by
  intro ctx i hwf hsel
  obtain ⟨hversion, hheaters, hreboot, hreset, -⟩ := decodeFrame_commands
  cases i
  case encode | ckfill | start | decode | ckverify | txwr | txrd | rxrd | settxlen | setrxlen | csrrd =>
    exact decodeEvent_of_encode_eq_host ctx hwf rfl
  case getVersion => exact hversion
  case numHeaters => exact hheaters
  case forceReboot => exact hreboot
  case forceReset => exact hreset
  case setPwm | versionResp | numHeatersResp | readVersion | readReport => rfl
  case txError | rxByte | rxError | check => rfl
  case txAccept | txAcceptLast => simp_all [Instr.selectedBy, encode, decodeEvent]
  case tickRead | tickDelay => simp_all [Instr.selectedBy, encode, decodeEvent, tickRow]
  case tickIdle =>
    obtain ⟨hread, hdelay⟩ := of_decide_eq_true hsel
    cases hseq : ctx.seq <;> simp_all [encode, decodeEvent, tickRow]

end Sys2Proof

/-! ## Session operations: a request issued or turned away (`spec/43_session_commands.md` R210, R211, R215) -/

namespace Sys2Proof.Machine

/-- What ENCODE, CKFILL and SETRXLEN leave of `s` before the START of a request (R105), `m` being `TXBUF`. -/
def State.requested (s : State) (m : Memory) (n : Nat) : State :=
  { s with txbuf := m, txlen := 6#9, rxlen := BitVec.ofNat 9 n, ret := .performed }

theorem State.requested_legalLengths (s : State) (m : Memory) {n : Nat} (hlow : 2 ≤ n) (hhigh : n ≤ 258) :
    legalLengths (s.requested m n) = true := by
  have hn : (BitVec.ofNat 9 n).toNat = n := Nat.mod_eq_of_lt (by omega)
  exact (legalLengths_eq_true _).2 (by simp [State.requested, hn, hlow, hhigh])

/-- `i` issues the request with code `cmd` and expects `n` bytes (R211, R215). -/
def IssuesRequest (i : Instr) (cmd : Byte) (n : Nat) : Prop :=
  (i = .getVersion ∧ cmd = Config.cmdGetVersion ∧ n = 10) ∨
    (i = .numHeaters ∧ cmd = Config.cmdNumHeaters ∧ n = Config.respLenNumHeaters)

section
variable {i : Instr} {cmd : Byte} {n : Nat}

theorem IssuesRequest.exec_eq (h : IssuesRequest i cmd n) (s : State) : exec i s = issueRequest cmd n s := by
  obtain ⟨rfl, rfl, rfl⟩ | ⟨rfl, rfl, rfl⟩ := h <;> rfl

/-- The expected length is one that START accepts. -/
theorem IssuesRequest.respLen_bounds (h : IssuesRequest i cmd n) : 2 ≤ n ∧ n ≤ 258 := by
  have := Config.respLenNumHeaters_bounds
  obtain ⟨-, -, rfl⟩ | ⟨-, -, rfl⟩ := h <;> omega

/-- An idle block comes to its START with the request's bytes in `TXBUF[0..5]` and every other cell as before. -/
theorem IssuesRequest.exec_idle (h : IssuesRequest i cmd n) {s : State} (hidle : s.seq = .idle) :
    ∃ m : Memory, exec i s = execStart (s.requested m n) ∧
      m.slice 0 6 = some [Config.som, 0x03#8, 0x01#8, 0x02#8, cmd, 250#8 - cmd] ∧
      ∀ a, 6 ≤ a → m.read a = s.txbuf.read a := by
  obtain ⟨m, hread, -, hstart⟩ := issueRequest_idle cmd n s hidle
  refine ⟨m, (h.exec_eq s).trans hstart, ?frame, fun a ha => (hread a).trans (if_neg (by omega))⟩
  rw [← requestFrame_eq]
  exact (Memory.slice_eq_some _ _ _ _).2 ⟨rfl, fun k hk => by rw [Nat.zero_add, hread, if_pos hk]⟩

end

/-- Settles O35: START finds the channel open, both lengths legal and the six cells of the request written. -/
theorem sessionRequestStartsItsFrame : Obligations.SessionRequestStartsItsFrame := by
  intro s i cmd n hidle hopen hreq
  have hreq : IssuesRequest i cmd n := hreq
  obtain ⟨m, hexec, hframe, hrest⟩ := hreq.exec_idle hidle
  refine ⟨m, hexec.trans (execStart_eq_next.2 ?accepted), hframe, hrest⟩
  obtain ⟨hlow, hhigh⟩ := hreq.respLen_bounds
  exact .inr (.inr (.inr ⟨_, hidle, hopen, s.requested_legalLengths m hlow hhigh, hframe, rfl⟩))

/-- Settles O36: START fails at once on a closed channel (R164); in flight each of the four operations is refused. -/
theorem sessionRequestTurnedAway : Obligations.SessionRequestTurnedAway := by
  intro s i cmd n hreq
  have hreq : IssuesRequest i cmd n := hreq
  refine ⟨fun hidle hclosed => ?closed, fun hbusy => ?busy⟩
  case closed =>
    obtain ⟨m, hexec, hframe, hrest⟩ := hreq.exec_idle hidle
    refine ⟨m, hexec.trans (execStart_eq_next.2 (.inr (.inl ⟨hidle, hclosed, ?_⟩))), hframe, hrest⟩
    simp [State.requested, State.startFailed, State.cleared, State.returning, hidle]
  case busy => exact (hreq.exec_eq s).trans (issueRequest_busy cmd n s hbusy)

end Sys2Proof.Machine

/-! ## Frame codec: bytes of a frame by position (`spec/40_frame_codec.md` R120, R123, R125) -/

namespace Sys2Proof.Machine

section
variable {som length src dst cmd k : Byte} {payload : List Byte}

theorem getElem?_payload_of_frame {j : Nat} (hj : j < payload.length) :
    (som :: length :: src :: dst :: cmd :: (payload ++ [k]))[5 + j]? = payload[j]? := by
  rw [Nat.add_comm]
  exact List.getElem?_append_left hj

theorem getElem?_trailer_of_frame :
    (som :: length :: src :: dst :: cmd :: (payload ++ [k]))[payload.length + 5]? = some k :=
  List.getElem?_concat_length

theorem frameFields_frame :
    frameFields (som :: length :: src :: dst :: cmd :: (payload ++ [k])) =
      some ⟨som, length, src, dst, cmd, payload, k⟩ := by
  simp [frameFields]

end

/-- R91: from six bytes on, a response has the five fields of its head, a payload and a trailer. -/
theorem exists_fields_of_six_le_length {f : List Byte} (h : 6 ≤ f.length) :
    ∃ v : FrameFields, f = v.som :: v.length :: v.src :: v.dst :: v.cmd :: (v.payload ++ [v.cksum]) := by
  match f, h with
  | som :: length :: src :: dst :: cmd :: b :: rest, _ =>
    refine ⟨⟨som, length, src, dst, cmd, (b :: rest).dropLast, (b :: rest).getLast (by simp)⟩, ?_⟩
    rw [List.dropLast_append_getLast]

/-- The trailer decides `CkOk` of a sequence written as first byte, body, trailer. -/
theorem isCkOk_cons_append_iff {a k : Byte} {body : List Byte} :
    isCkOk (a :: (body ++ [k])) = true ↔ k = bodyCksum body := by
  have hlast : byteAt (a :: (body ++ [k])) (body.length + 1) = some k := List.getElem?_concat_length
  simp [isCkOk, hlast, cksum]

/-- R91: the body of the frame of ENCODE, the bytes its checksum is taken over. -/
def encodedBody (src dst cmd : Byte) (payload : List Byte) : List Byte :=
  BitVec.ofNat 8 (payload.length + 3) :: src :: dst :: cmd :: payload

theorem encodedBody_length (src dst cmd : Byte) (payload : List Byte) :
    (encodedBody src dst cmd payload).length = payload.length + 4 := rfl

theorem frameTemplate_eq (src dst cmd : Byte) (payload : List Byte) :
    frameTemplate src dst cmd payload = Config.som :: (encodedBody src dst cmd payload ++ [0x00#8]) := rfl

theorem completeFrame_eq (src dst cmd : Byte) (payload : List Byte) :
    completeFrame src dst cmd payload =
      Config.som :: (encodedBody src dst cmd payload ++ [bodyCksum (encodedBody src dst cmd payload)]) := rfl

/-- R97, R125: up to 252 payload bytes the length byte does not wrap. -/
theorem isWellFormedFrame_completeFrame (src dst cmd : Byte) {payload : List Byte} (h : payload.length ≤ 252) :
    isWellFormedFrame (completeFrame src dst cmd payload) = true := by
  have hsom : isSomOk (completeFrame src dst cmd payload) = true := beq_self_eq_true _
  have hlen : isLenOk (completeFrame src dst cmd payload) = true := by
    refine decide_eq_true ?_
    rw [completeFrame_length, BitVec.toNat_ofNat]
    omega
  have hck : isCkOk (completeFrame src dst cmd payload) = true := by
    rw [completeFrame_eq]
    exact isCkOk_cons_append_iff.2 rfl
  rw [isWellFormedFrame, hsom, hlen, hck, completeFrame_length]
  simp [h]

end Sys2Proof.Machine

/-! ## Frame codec: ENCODE and CKFILL (`spec/40_frame_codec.md` R120, R121, R126) -/

namespace Sys2Proof.Machine

/-! ### Frames in a buffer -/

/-- The cells of a sequence laid out from index 0. -/
theorem Memory.read_writeList_zero (m : Memory) {f : List Byte} {j : Nat} (h : j < f.length) :
    (m.writeList 0 f).read j = f[j]? := by
  rw [Memory.read_writeList, if_pos (by omega), Nat.sub_zero]

theorem Memory.read_writeList_zero_above (m : Memory) {f : List Byte} {j : Nat} (h : f.length ≤ j) :
    (m.writeList 0 f).read j = m.read j := by
  rw [Memory.read_writeList, if_neg (by omega)]

section
variable {m : Memory} {i n : Nat} {f g : List Byte}

theorem Memory.slice_of_slice_append (h : m.slice i n = some (f ++ g)) : m.slice i f.length = some f := by
  obtain ⟨hlen, hread⟩ := (Memory.slice_eq_some m i n (f ++ g)).1 h
  rw [List.length_append] at hlen
  refine (Memory.slice_eq_some m i f.length f).2 ⟨rfl, fun k hk => ?_⟩
  rw [hread k (by omega), List.getElem?_append_left hk]

theorem Memory.slice_of_slice_cons {a : Byte} (h : m.slice i (n + 1) = some (a :: f)) :
    m.slice (i + 1) n = some f := by
  simp only [Memory.slice_succ, Option.bind_eq_some_iff, Option.map_eq_some_iff] at h
  obtain ⟨b, -, r, hr, heq⟩ := h
  cases heq
  exact hr

/-- A write to the cell after a slice makes the slice one byte longer. -/
theorem Memory.slice_write_snoc (h : m.slice i n = some f) (b : Byte) :
    (m.write (i + n) b).slice i (n + 1) = some (f ++ [b]) := by
  refine Memory.slice_snoc ?_ (Memory.read_write_same m (i + n) b)
  rw [← h]
  exact Memory.slice_congr fun k hk => Memory.read_write_other _ _ _ _ (by omega)

end

/-! ### The two operations -/

theorem exec_encode {s : State} {payload : List Byte} (src dst cmd : Byte) (hidle : s.seq = .idle)
    (hlen : payload.length ≤ 252) :
    exec (.encode src dst cmd payload) s =
      .next ((s.storeFrame (frameTemplate src dst cmd payload)).returning .performed) :=
  execEncode_eq_next.2 (.inr (.inr ⟨hidle, hlen, rfl⟩))

/-- R143: over a written sequence of first byte `a`, body and any trailer, CKFILL completes, and the sequence then
ends in the checksum of its body. -/
theorem exec_ckfill {s : State} {a k : Byte} {body : List Byte} (hidle : s.seq = .idle)
    (hlen : s.txlen.toNat = body.length + 2) (hmax : body.length ≤ 256)
    (hframe : s.txbuf.slice 0 (body.length + 2) = some (a :: (body ++ [k]))) :
    ∃ u, exec .ckfill s = .next u ∧
      u.txbuf.slice 0 (body.length + 2) = some (a :: (body ++ [bodyCksum body])) := by
  have hhead : s.txbuf.slice 0 (body.length + 1) = some (a :: body) :=
    Memory.slice_of_slice_append (f := a :: body) hframe
  have hbody : s.txbuf.slice 1 (s.txlen.toNat - 2) = some body := by
    rw [hlen]
    exact Memory.slice_of_slice_cons hhead
  refine ⟨_, execCkfill_eq_next.2 (.inr (.inr ⟨body, hidle, by omega, by omega, hbody, rfl⟩)), ?_⟩
  have htrailer : s.txlen.toNat - 1 = 0 + (body.length + 1) := by omega
  rw [State.returning_txbuf, State.storeTx_txbuf, htrailer]
  exact Memory.slice_write_snoc hhead (bodyCksum body)

/-- Settles O22: CKFILL turns the template ENCODE laid out into the complete frame. -/
theorem encodedFrameIsWellFormed : Obligations.EncodedFrameIsWellFormed := by
  intro s src dst cmd payload hidle hlen
  set t := (s.storeFrame (frameTemplate src dst cmd payload)).returning .performed with ht
  have htxlen : t.txlen.toNat = (encodedBody src dst cmd payload).length + 2 := by
    rw [ht, State.returning_txlen, State.storeFrame_txlen, frameTemplate_length, encodedBody_length,
      BitVec.toNat_ofNat]
    omega
  have htemplate : t.txbuf.slice 0 ((encodedBody src dst cmd payload).length + 2) =
      some (Config.som :: (encodedBody src dst cmd payload ++ [0x00#8])) := by
    rw [← frameTemplate_eq, ht, State.returning_txbuf, State.storeFrame_txbuf, encodedBody_length,
      ← frameTemplate_length src dst cmd payload]
    exact Memory.slice_writeList _ _ _
  obtain ⟨u, hfill, hframe⟩ := exec_ckfill (s := t) hidle htxlen (by rw [encodedBody_length]; omega) htemplate
  have htrailer : (completeFrame src dst cmd payload)[payload.length + 5]? =
      some (cksum (completeFrame src dst cmd payload)) := by
    rw [completeFrame_eq, cksum, bodyOf_cons_append]
    exact getElem?_trailer_of_frame
  exact ⟨t, u, completeFrame src dst cmd payload, exec_encode src dst cmd hidle hlen, hfill, hframe,
    isWellFormedFrame_completeFrame src dst cmd hlen, rfl, rfl, rfl, fun _ hj => getElem?_payload_of_frame hj,
    htrailer⟩

/-- Settles O16: the cells up to the trailer are the template's bytes by position. -/
theorem encodeBuildsTheFrame : Obligations.EncodeBuildsTheFrame := by
  intro s src dst cmd payload hidle hlen
  have hlength := frameTemplate_length src dst cmd payload
  have hcell {j : Nat} (hj : j < payload.length + 6) :
      (s.txbuf.writeList 0 (frameTemplate src dst cmd payload)).read j = (frameTemplate src dst cmd payload)[j]? :=
    Memory.read_writeList_zero _ (by omega)
  refine ⟨s.txbuf.writeList 0 (frameTemplate src dst cmd payload), ?next, hcell (by omega), hcell (by omega),
    hcell (by omega), hcell (by omega), hcell (by omega), ?payload, ?trailer, ?above⟩
  case next =>
    rw [exec_encode src dst cmd hidle hlen, State.storeFrame, hlength]
    rfl
  case payload => exact fun j hj => (hcell (by omega)).trans (getElem?_payload_of_frame hj)
  case trailer => exact (hcell (by omega)).trans getElem?_trailer_of_frame
  case above => exact fun a ha => Memory.read_writeList_zero_above _ (by omega)

/-- Settles O17: the first two rows of `execEncode_eq_next`. -/
theorem encodeRefusals : Obligations.EncodeRefusals := by
  intro s src dst cmd payload
  refine ⟨fun hbusy => ?busy, fun hidle hlong => ?tooLong⟩
  case busy => exact execEncode_eq_next.2 (.inl ⟨hbusy, rfl⟩)
  case tooLong => exact execEncode_eq_next.2 (.inr (.inl ⟨hidle, hlong, rfl⟩))

end Sys2Proof.Machine

/-! ## Frame codec: raw access (`spec/40_frame_codec.md` R122, `spec/10_state.md` R40) -/

namespace Sys2Proof.Machine

/-! ### The lengths and the registers written by number -/

section
variable {s : State} (v : Word16)

theorem lengthOperand_eq_extractLsb' : lengthOperand v = v.extractLsb' 0 9 :=
  BitVec.setWidth_eq_extractLsb' (by decide)

theorem State.writeTxlen_idle (h : s.seq = .idle) :
    s.writeTxlen v = { s with txlen := v.extractLsb' 0 9, ret := .performed } := by
  rw [← lengthOperand_eq_extractLsb']
  exact if_neg (by simp [h])

theorem State.writeRxlen_idle (h : s.seq = .idle) :
    s.writeRxlen v = { s with rxlen := v.extractLsb' 0 9, ret := .performed } := by
  rw [← lengthOperand_eq_extractLsb']
  exact if_neg (by simp [h])

theorem State.writeTxlen_busy (h : s.seq ≠ .idle) : s.writeTxlen v = s.refusing .busy :=
  if_pos ((busy_eq_true s).2 h)

theorem State.writeRxlen_busy (h : s.seq ≠ .idle) : s.writeRxlen v = s.refusing .busy :=
  if_pos ((busy_eq_true s).2 h)

theorem State.writeRegister_txlen : s.writeRegister 2#16 v = s.writeTxlen v := rfl

theorem State.writeRegister_rxlen : s.writeRegister 3#16 v = s.writeRxlen v := rfl

/-- R40: `TXLEN` and `RXLEN` are the only registers the host writes. -/
theorem State.writeRegister_other {n : Word16} (htx : n ≠ 2#16) (hrx : n ≠ 3#16) :
    s.writeRegister n v = s.refusing (if n.toNat ≤ 10 then .readOnly else .badRegister) := by
  unfold State.writeRegister
  split
  · next h => exact absurd (BitVec.eq_of_toNat_eq h) htx
  · next h => exact absurd (BitVec.eq_of_toNat_eq h) hrx
  · rfl

end

/-! ### Single cells and single registers -/

theorem exec_settxlen (n : Word16) (s : State) : exec (.settxlen n) s = .next (s.writeTxlen n) := rfl

theorem exec_setrxlen (n : Word16) (s : State) : exec (.setrxlen n) s = .next (s.writeRxlen n) := rfl

theorem exec_txwr_refused {s : State} {i : Nat} {v : Byte} (h : ¬(s.seq = .idle ∧ i < 258)) :
    ∃ r, exec (.txwr i v) s = .next (s.refusing r) := by
  by_cases hidle : s.seq = .idle
  · have hi : 258 ≤ i := Nat.not_lt.1 fun hi => h ⟨hidle, hi⟩
    exact ⟨.badIndex, execTxwr_eq_next.2 (.inr (.inl ⟨hidle, hi, rfl⟩))⟩
  · exact ⟨.busy, execTxwr_eq_next.2 (.inl ⟨hidle, rfl⟩)⟩

/-- TXRD of a written cell gives its byte, while busy too (R122). -/
theorem exec_txrd {s : State} {i : Nat} {b : Byte} (hi : i < 258) (hb : s.txbuf.read i = some b) :
    exec (.txrd i) s = .next { s with ret := .byte b } := by
  change execTxrd i s = _
  unfold execTxrd
  rw [if_pos ((inBuffer_eq_true i).2 hi), hb]
  rfl

theorem exec_txrd_refused {s : State} {i : Nat} (h : 258 ≤ i ∨ s.txbuf.read i = none) :
    ∃ r, exec (.txrd i) s = .next (s.refusing r) := by
  change ∃ r, execTxrd i s = _
  unfold execTxrd
  split
  · next hi =>
    have hnone : s.txbuf.read i = none := h.resolve_left (Nat.not_le.2 ((inBuffer_eq_true i).1 hi))
    rw [hnone]
    exact ⟨.unwritten, rfl⟩
  · exact ⟨.badIndex, rfl⟩

/-- R40: no register has a number above 10. -/
theorem exec_csrrd_absent {n : Word16} (s : State) (h : 11 ≤ n.toNat) :
    exec (.csrrd n) s = .next { s with ret := .refused .badRegister } := by
  have hnone : csrValue s n.toNat = none := by
    rw [← Option.not_isSome_iff_eq_none, csrValue_isSome, decide_eq_true_eq]
    omega
  change execCsrrd n s = _
  unfold execCsrrd
  rw [hnone]
  rfl

/-- Settles O18: each access by its own equation, the write by number by the register it names. -/
theorem rawAccessToTheCommandSide : Obligations.RawAccessToTheCommandSide := by
  intro s
  refine ⟨fun i v => ⟨fun hidle hi => ?txwr, fun h => ?txwrRefused⟩,
    fun i => ⟨fun b hi hb => ?txrd, fun h => ?txrdRefused⟩,
    fun n => ⟨fun hidle => ?setIdle, fun hbusy => ?setBusy⟩, fun n => ⟨fun w hw => ?csrrd, fun hn => ?csrrdAbsent⟩,
    fun n v rest hq => ?regWrite⟩
  case txwr =>
    exact ⟨s.txbuf.write i v, execTxwr_eq_next.2 (.inr (.inr ⟨hidle, Nat.lt_succ_of_le hi, rfl⟩)),
      Memory.read_write_same _ _ _, fun a ha => Memory.read_write_other _ _ _ _ ha⟩
  case txwrRefused => exact exec_txwr_refused fun ⟨hidle, hi⟩ => h ⟨hidle, Nat.le_of_lt_succ hi⟩
  case txrd => exact exec_txrd (Nat.lt_succ_of_le hi) hb
  case txrdRefused => exact exec_txrd_refused h
  case setIdle =>
    rw [exec_settxlen, exec_setrxlen, State.writeTxlen_idle n hidle, State.writeRxlen_idle n hidle]
    exact ⟨rfl, rfl⟩
  case setBusy =>
    rw [exec_settxlen, exec_setrxlen, State.writeTxlen_busy n hbusy, State.writeRxlen_busy n hbusy]
    exact ⟨rfl, rfl⟩
  case csrrd => exact exec_csrrd hw
  case csrrdAbsent => exact exec_csrrd_absent s hn
  case regWrite =>
    rw [step_regWrite hq]
    refine ⟨?txlen, ?rxlen, ?busy, ?readOnly, ?absent⟩
    case txlen =>
      rintro rfl hidle
      rw [State.writeRegister_txlen, State.writeTxlen_idle (s := s.taking rest) v hidle]
      rfl
    case rxlen =>
      rintro rfl hidle
      rw [State.writeRegister_rxlen, State.writeRxlen_idle (s := s.taking rest) v hidle]
      rfl
    case busy =>
      rintro (rfl | rfl) hbusy
      · rw [State.writeRegister_txlen, State.writeTxlen_busy (s := s.taking rest) v hbusy]
        rfl
      · rw [State.writeRegister_rxlen, State.writeRxlen_busy (s := s.taking rest) v hbusy]
        rfl
    case readOnly =>
      intro htx hrx hn
      rw [State.writeRegister_other v htx hrx, if_pos hn]
      rfl
    case absent =>
      intro hn
      have hne {k : Nat} (hk : k < 11) : n ≠ BitVec.ofNat 16 k := by
        rintro rfl
        rw [BitVec.toNat_ofNat] at hn
        omega
      rw [State.writeRegister_other v (hne (by decide)) (hne (by decide)), if_neg (by omega)]
      rfl

end Sys2Proof.Machine

/-! ## Frame codec: reading the response (`spec/40_frame_codec.md` R123, R124, R212 to R217) -/

namespace Sys2Proof.Machine

/-! ### DECODE and RXRD -/

section
variable {s : State}

/-- R123: over a successful response of at least six received bytes DECODE answers the fields of those bytes. -/
theorem exec_decode {f : List Byte} {v : FrameFields} (hidle : s.seq = .idle) (hdone : s.done = true)
    (hok : s.result = .ok) (hlen : 6 ≤ s.rxlen.toNat) (hframe : hostRxFrame s s.rxlen.toNat = some f)
    (hfields : frameFields f = some v) : exec .decode s = .next { s with ret := .fields v } := by
  change execDecode s = _
  unfold execDecode
  rw [if_neg (by simp [hidle]), if_neg (by simp [hdone]), if_neg (by simp [hok]), if_neg (by omega), hframe,
    Option.bind_some, hfields]
  rfl

theorem exec_decode_refused (h : ¬(s.seq = .idle ∧ s.done = true ∧ s.result = .ok ∧ 6 ≤ s.rxlen.toNat)) :
    ∃ r, exec .decode s = .next (s.refusing r) := by
  change ∃ r, execDecode s = _
  unfold execDecode
  split
  · exact ⟨.busy, rfl⟩
  · next hbusy =>
    split
    · exact ⟨.notDone, rfl⟩
    · next hdone =>
      split
      · exact ⟨.notOk, rfl⟩
      · next hok =>
        split
        · exact ⟨.badLength, rfl⟩
        · next hlen => exact absurd ⟨by simpa using hbusy, by simpa using hdone, not_not.1 hok, Nat.not_lt.1 hlen⟩ h

/-- R22, R124: once the transaction is over RXRD answers what the host sees of the cell, whatever the verdict. -/
theorem exec_rxrd {i : Nat} {b : Byte} (hidle : s.seq = .idle) (hdone : s.done = true) (hb : hostRx s i = some b) :
    exec (.rxrd i) s = .next { s with ret := .byte b } := by
  change execRxrd i s = _
  unfold execRxrd
  rw [if_neg (by simp [hidle]), if_neg (by simp [hdone]), hb]
  rfl

theorem exec_rxrd_refused {i : Nat} (h : ¬(s.seq = .idle ∧ s.done = true ∧ i < s.rxcnt.toNat)) :
    ∃ r, exec (.rxrd i) s = .next (s.refusing r) := by
  change ∃ r, execRxrd i s = _
  unfold execRxrd
  split
  · exact ⟨.busy, rfl⟩
  · next hbusy =>
    split
    · exact ⟨.notDone, rfl⟩
    · next hdone =>
      split
      · next hb => exact absurd ⟨by simpa using hbusy, by simpa using hdone, (hostRx_eq_some.1 hb).1⟩ h
      · exact ⟨.badIndex, rfl⟩

end

/-- Settles O20: the received bytes are the head, payload and trailer of `exists_fields_of_six_le_length`. -/
theorem decodeReturnsTheFields : Obligations.DecodeReturnsTheFields := by
  refine ⟨fun s f hidle hdone hok hlen hcounted hslice => ?fields, fun s h => exec_decode_refused h⟩
  have hlength : f.length = s.rxlen.toNat := Memory.slice_length hslice
  obtain ⟨v, rfl⟩ := exists_fields_of_six_le_length (hlength ▸ hlen)
  have hpayload : v.payload.length + 6 = s.rxlen.toNat := by simpa using hlength
  refine ⟨v, exec_decode hidle hdone hok hlen (hostRxFrame_eq_some.2 ⟨hcounted, hslice⟩) frameFields_frame,
    rfl, rfl, rfl, rfl, rfl, by omega, fun j hj => (getElem?_payload_of_frame hj).symm, ?trailer⟩
  rw [← hpayload]
  exact getElem?_trailer_of_frame

/-- Settles O21: the cells below `RXCNT` are those the host sees. -/
theorem rxrdReturnsReceivedBytes : Obligations.RxrdReturnsReceivedBytes :=
  ⟨fun _ _ _ hidle hdone hi hb => exec_rxrd hidle hdone (hostRx_eq_some.2 ⟨hi, hb⟩), fun _ _ => exec_rxrd_refused⟩

/-! ### The session's reads -/

section
variable {s : State} {k : Answer}

theorem readResponse_ok (hidle : s.seq = .idle) (hdone : s.done = true) (hok : s.result = .ok) :
    readResponse s k = k := by
  unfold readResponse
  rw [if_neg (by simp [hidle]), if_neg (by simp [hdone]), if_neg (by simp [hok])]

theorem readResponse_failed (hidle : s.seq = .idle) (hdone : s.done = true) (hfail : s.result ≠ .ok) :
    readResponse s k = .next { s with ret := .failure } :=
  readResponse_eq_next.2 (.inr (.inr (.inr ⟨hidle, hdone, hfail, rfl⟩)))

theorem readResponse_tooEarly (h : s.seq ≠ .idle ∨ s.done = false) :
    ∃ r, readResponse s k = .next (s.refusing r) := by
  by_cases hidle : s.seq = .idle
  · have hdone : s.done = false := h.resolve_left (not_not.2 hidle)
    exact ⟨.notDone, readResponse_eq_next.2 (.inr (.inr (.inl ⟨hidle, hdone, rfl⟩)))⟩
  · exact ⟨.busy, readResponse_eq_next.2 (.inr (.inl ⟨hidle, rfl⟩))⟩

end

/-- Settles O37: the four bytes at their offsets, and none of them when `RXCNT` leaves out byte 8. -/
theorem versionIsReadByOffset : Obligations.VersionIsReadByOffset := by
  refine ⟨fun s major minor hi lo hidle hdone hok hcnt h5 h6 h7 h8 => ?version,
    fun s hidle hdone hok hshort => ?tooShort, fun s hidle hdone hfail => readResponse_failed hidle hdone hfail,
    fun s h => readResponse_tooEarly h⟩
  case version =>
    have hread : readVersionInfo s = some ⟨major, minor, be16 hi lo⟩ :=
      readVersionInfo_eq_some.2 ⟨hi, lo, hcnt, h5, h6, h7, h8, rfl⟩
    refine ⟨be16 hi lo, be16_toNat hi lo, (readResponse_ok hidle hdone hok).trans ?_⟩
    rw [hread]
    rfl
  case tooShort =>
    have hread : readVersionInfo s = none := by
      refine Option.eq_none_iff_forall_ne_some.2 fun v hv => ?_
      obtain ⟨hi, lo, hcnt, -⟩ := readVersionInfo_eq_some.1 hv
      omega
    refine (readResponse_ok hidle hdone hok).trans ?_
    rw [hread]
    rfl

/-- Settles O38: byte 4, and nothing when `RXCNT` leaves it out. -/
theorem heaterCountIsReadByOffset : Obligations.HeaterCountIsReadByOffset := by
  refine ⟨fun s n hidle hdone hok hcnt h4 => ?count, fun s hidle hdone hok hshort => ?tooShort,
    fun s hidle hdone hfail => readResponse_failed hidle hdone hfail, fun s h => readResponse_tooEarly h⟩
  case count =>
    have hread : hostRx s Config.heaterCountOffset = some n := hostRx_eq_some.2 ⟨hcnt, h4⟩
    refine (readResponse_ok hidle hdone hok).trans ?_
    rw [hread]
    rfl
  case tooShort =>
    have hread : hostRx s Config.heaterCountOffset = none := if_neg (Nat.not_lt.2 (Nat.le_of_lt_succ hshort))
    refine (readResponse_ok hidle hdone hok).trans ?_
    rw [hread]
    rfl

end Sys2Proof.Machine

/-! ## Checksum: the sums of a body (`spec/41_checksum.md` R140 to R142, R145, R146) -/

namespace Sys2Proof.Machine

/-! ### Signed and unsigned sum -/

theorem s8_eq_or (b : Byte) : s8 b = b.toNat ∨ s8 b = (b.toNat : Int) - 256 := by
  rw [s8, BitVec.toInt_eq_toNat_cond]
  split
  · exact .inl rfl
  · exact .inr rfl

theorem signedSum_eq_sum (body : List Byte) : signedSum body = (body.map s8).sum := by
  induction body with
  | nil => rfl
  | cons b r ih => rw [signedSum, ih, List.map_cons, List.sum_cons]

theorem unsignedSum_eq_sum (body : List Byte) : unsignedSum body = (body.map BitVec.toNat).sum := by
  induction body with
  | nil => rfl
  | cons b r ih => rw [unsignedSum, ih, List.map_cons, List.sum_cons]

/-- R141: the sums are congruent, because the bytes are one by one. -/
theorem dvd_signedSum_sub_unsignedSum (body : List Byte) : (256 : Int) ∣ signedSum body - unsignedSum body := by
  induction body with
  | nil => simp [signedSum, unsignedSum]
  | cons b r ih =>
    have hb := s8_eq_or b
    rw [signedSum, unsignedSum]
    omega

theorem signedSum_bounds (body : List Byte) :
    -128 * (body.length : Int) ≤ signedSum body ∧ signedSum body ≤ 127 * (body.length : Int) := by
  induction body with
  | nil => simp [signedSum]
  | cons b r ih =>
    have hlow : -128 ≤ s8 b := BitVec.le_toInt b
    have hhigh : s8 b < 128 := BitVec.toInt_lt
    rw [signedSum, List.length_cons]
    omega

theorem unsignedSum_le (body : List Byte) : unsignedSum body ≤ 255 * body.length := by
  induction body with
  | nil => simp [unsignedSum]
  | cons b r ih =>
    have hb := b.isLt
    rw [unsignedSum, List.length_cons]
    omega

theorem unsignedSum_perm {body body' : List Byte} (h : body.Perm body') : unsignedSum body = unsignedSum body' := by
  rw [unsignedSum_eq_sum, unsignedSum_eq_sum]
  exact (h.map BitVec.toNat).sum_eq

theorem unsignedSum_replicate_zero (n : Nat) : unsignedSum (List.replicate n 0x00#8) = 0 := by
  simp [unsignedSum_eq_sum]

/-! ### The checksum of a body -/

/-- R140: the checksum as a number, the non-negative remainder. -/
theorem bodyCksum_toNat_eq_neg_signedSum (body : List Byte) :
    ((bodyCksum body).toNat : Int) = -signedSum body % 256 := by
  rw [bodyCksum, BitVec.toNat_ofInt]
  exact Int.toNat_of_nonneg (Int.emod_nonneg _ (by decide))

theorem bodyCksum_toNat (body : List Byte) : (bodyCksum body).toNat = (256 - unsignedSum body % 256) % 256 := by
  have hsigned := bodyCksum_toNat_eq_neg_signedSum body
  have hcongr := dvd_signedSum_sub_unsignedSum body
  omega

/-- R145: exactly the checksum brings the unsigned sum to 0. -/
theorem unsignedSum_add_eq_zero_iff (body : List Byte) (k : Byte) :
    (unsignedSum body + k.toNat) % 256 = 0 ↔ k = bodyCksum body := by
  have hk := k.isLt
  rw [← BitVec.toNat_inj, bodyCksum_toNat]
  omega

/-- R145: exactly the checksum brings the signed sum to 0. -/
theorem signedSum_add_eq_zero_iff (body : List Byte) (k : Byte) :
    (signedSum body + k.toNat) % 256 = 0 ↔ k = bodyCksum body := by
  have hcongr := dvd_signedSum_sub_unsignedSum body
  rw [← unsignedSum_add_eq_zero_iff]
  omega

/-! ### The body of a frame -/

/-- From two bytes on, a sequence has a first byte, a body and a trailer. -/
theorem exists_body_of_two_le_length {f : List Byte} (h : 2 ≤ f.length) :
    ∃ (a : Byte) (body : List Byte) (k : Byte), f = a :: (body ++ [k]) := by
  match f, h with
  | a :: b :: r, _ => exact ⟨a, (b :: r).dropLast, (b :: r).getLast (by simp), by rw [List.dropLast_append_getLast]⟩

/-- R18: the body by indices, 1 to `N - 2`. -/
theorem bodyOf_eq_map_range (f : List Byte) :
    bodyOf f = (List.range (f.length - 2)).map fun i => f.getD (i + 1) 0#8 := by
  refine List.ext_getElem (by simp [bodyOf]; omega) fun i hi _ => ?_
  have hlt : i + 1 < f.length := by
    simp [bodyOf] at hi
    omega
  simp [bodyOf, List.getElem?_eq_getElem hlt]

/-- R146: over a whole response the accumulator takes the body. -/
theorem accOf_length (f : List Byte) : accOf f f.length = accSum (bodyOf f) := by
  rw [accOf, bodyOf, ← List.dropLast_eq_take, List.drop_one, List.tail_dropLast]

/-! ### The statements about sums -/

/-- Settles O6: the body by indices, and R140 for a body. -/
theorem checksumIsTheNegatedSignedSum : Obligations.ChecksumIsTheNegatedSignedSum := by
  intro f _
  rw [cksum, bodyCksum_toNat_eq_neg_signedSum, signedSum_eq_sum, bodyOf_eq_map_range, List.map_map]
  rfl

/-- Settles O7: byte by byte, then over the body, then for the checksum. -/
theorem signedAndUnsignedChecksumAgree : Obligations.SignedAndUnsignedChecksumAgree :=
  ⟨s8_eq_or, fun body => ⟨Int.emod_eq_zero_of_dvd (dvd_signedSum_sub_unsignedSum body), bodyCksum_toNat body⟩⟩

/-- Settles O8: the bounds per byte, times at most 256 bytes. -/
theorem sumsFitSixteenBits : Obligations.SumsFitSixteenBits := by
  intro body n hlen
  have hpart : (body.take n).length ≤ 256 := (List.length_take_le' n body).trans hlen
  obtain ⟨hlow, hhigh⟩ := signedSum_bounds (body.take n)
  have hunsigned := unsignedSum_le (body.take n)
  refine ⟨by omega, by omega, by omega, ?_⟩
  rw [bodyCksum_eq_neg_accSum, BitVec.zero_sub]

/-- Settles O10: in CHECK all of the response is counted, so the accumulator holds the sum of its body. -/
theorem accumulatorGivesTheChecksum : Obligations.AccumulatorGivesTheChecksum := by
  intro s f hinv hseq hf
  obtain ⟨-, hfull⟩ := hinv.checking hseq
  have hacc : s.ckAcc = accSum (bodyOf f) := by
    rw [← accOf_length, Memory.slice_length hf]
    exact hinv.streamed (.inr hseq) f (hfull ▸ hf)
  rw [cksum, bodyCksum_eq_neg_accSum, ← hacc, BitVec.toNat_neg]

end Sys2Proof.Machine

/-! ## Checksum: what verification detects (`spec/41_checksum.md` R145, R148, R149) -/

namespace Sys2Proof.Machine

/-- R145: verification by the sum of the bytes from index 1 on, trailer included. -/
theorem isCkOk_eq_true_iff {f : List Byte} :
    isCkOk f = true ↔ 2 ≤ f.length ∧ unsignedSum f.tail % 256 = 0 := by
  by_cases hlen : 2 ≤ f.length
  · obtain ⟨a, body, k, rfl⟩ := exists_body_of_two_le_length hlen
    have htail : unsignedSum (body ++ [k]) = unsignedSum body + k.toNat := by
      rw [unsignedSum_append, unsignedSum, unsignedSum, Nat.add_zero]
    rw [isCkOk_cons_append_iff, List.tail_cons, htail, unsignedSum_add_eq_zero_iff]
    exact (and_iff_right hlen).symm
  · simp [isCkOk, hlen]

/-- Verification depends on the length and on that sum modulo 256. -/
theorem isCkOk_congr {f g : List Byte} (hlen : f.length = g.length)
    (hsum : unsignedSum f.tail % 256 = unsignedSum g.tail % 256) : isCkOk f = isCkOk g := by
  rw [Bool.eq_iff_iff, isCkOk_eq_true_iff, isCkOk_eq_true_iff, hlen, hsum]

/-- Two sequences that differ at one index are one sequence with two bytes at that index. -/
theorem exists_split_of_differ_at {f g : List Byte} {j : Nat} (hf : j < f.length) (hg : j < g.length)
    (hdiff : f[j]? ≠ g[j]?) (hsame : ∀ i, i ≠ j → f[i]? = g[i]?) :
    ∃ (front back : List Byte) (b c : Byte), front.length = j ∧ b ≠ c ∧
      f = front ++ b :: back ∧ g = front ++ c :: back := by
  have hfront : g.take j = f.take j := List.ext_getElem? fun i => by
    by_cases hi : i < j
    · rw [List.getElem?_take_of_lt hi, List.getElem?_take_of_lt hi, hsame i (by omega)]
    · rw [List.getElem?_take_eq_none (by omega), List.getElem?_take_eq_none (by omega)]
  have hback : g.drop (j + 1) = f.drop (j + 1) := List.ext_getElem? fun i => by
    rw [List.getElem?_drop, List.getElem?_drop, hsame _ (by omega)]
  refine ⟨f.take j, f.drop (j + 1), f[j], g[j], by simp; omega, ?_, ?_, ?_⟩
  · intro heq
    exact hdiff (by rw [List.getElem?_eq_getElem hf, List.getElem?_eq_getElem hg, heq])
  · rw [List.cons_getElem_drop_succ, List.take_append_drop]
  · rw [← hfront, ← hback, List.cons_getElem_drop_succ, List.take_append_drop]

/-- Settles O9: R145 for a body and a trailer, and for a frame. -/
theorem checksumAloneZeroesTheSum : Obligations.ChecksumAloneZeroesTheSum :=
  ⟨fun body k => ⟨unsignedSum_add_eq_zero_iff body k, signedSum_add_eq_zero_iff body k⟩,
    fun _ hlen => isCkOk_eq_true_iff.trans (and_iff_right hlen)⟩

/-- Settles O12: the sums of the two sequences differ by less than 256 and by something. -/
theorem singleCorruptionIsDetected : Obligations.SingleCorruptionIsDetected := by
  intro f g j _ hlen hpass hj hjlt hdiff hsame
  obtain ⟨front, back, b, c, hfront, hbc, rfl, rfl⟩ :=
    exists_split_of_differ_at hjlt (hlen ▸ hjlt) hdiff hsame
  obtain ⟨a, front, rfl⟩ := List.exists_cons_of_length_pos (hfront ▸ hj)
  have hsum (x : Byte) : unsignedSum (a :: front ++ x :: back).tail =
      unsignedSum front + (x.toNat + unsignedSum back) := unsignedSum_append front (x :: back)
  have hne : b.toNat ≠ c.toNat := mt BitVec.eq_of_toNat_eq hbc
  obtain ⟨-, hzero⟩ := isCkOk_eq_true_iff.1 hpass
  rw [hsum] at hzero
  refine Bool.eq_false_iff.2 fun hpass' => ?_
  obtain ⟨-, hzero'⟩ := isCkOk_eq_true_iff.1 hpass'
  rw [hsum] at hzero'
  omega

/-- Settles O13: none of these changes moves the sum modulo 256. -/
theorem undetectedChanges : Obligations.UndetectedChanges := by
  refine ⟨fun a a' r => ?firstByte, fun f g => isCkOk_congr, fun a k body body' hperm => ?reordered,
    fun a n => ?zeros⟩
  case firstByte => exact isCkOk_congr rfl rfl
  case reordered =>
    have htail : (body ++ [k]).Perm (body' ++ [k]) := hperm.append_right [k]
    refine isCkOk_congr (htail.cons a).length_eq ?_
    rw [List.tail_cons, List.tail_cons, unsignedSum_perm htail]
  case zeros =>
    refine isCkOk_eq_true_iff.2 ⟨by simp, ?_⟩
    rw [List.tail_cons, unsignedSum_replicate_zero]

end Sys2Proof.Machine

/-! ## Checksum: CKFILL and CKVERIFY (`spec/41_checksum.md` R143, R144, R147) -/

namespace Sys2Proof.Machine

/-! ### CKFILL -/

theorem Memory.write_write (m : Memory) (i : Nat) (v w : Byte) : (m.write i v).write i w = m.write i w := by
  induction m with
  | nil => simp [Memory.write]
  | cons c rest ih =>
    obtain ⟨a, x⟩ := c
    rcases lt_trichotomy i a with hlt | rfl | hgt
    · simp [Memory.write, hlt]
    · simp [Memory.write]
    · simp [Memory.write, hgt.ne', hgt.not_gt, ih]

theorem exec_ckfill_unwritten {s : State} (hidle : s.seq = .idle) (hlow : 2 ≤ s.txlen.toNat)
    (hhigh : s.txlen.toNat ≤ 258) (hbody : s.txbuf.slice 1 (s.txlen.toNat - 2) = none) :
    exec .ckfill s = .refused .unwrittenCell := by
  change execCkfill s = _
  unfold execCkfill
  rw [if_neg (by simp [hidle]), if_neg (by omega), hbody]

/-- R147: a performed CKFILL writes no cell of the body, so the next one finds the same body and writes the same
trailer; a refused one leaves what refused it. -/
theorem execCkfill_idem {s t : State} (h : execCkfill s = .next t) : execCkfill t = .next t := by
  rcases execCkfill_eq_next.1 h with ⟨hbusy, rfl⟩ | ⟨hidle, hlen, rfl⟩ | ⟨body, hidle, hlow, hhigh, hbody, rfl⟩
  case inl => exact execCkfill_eq_next.2 (.inl ⟨hbusy, rfl⟩)
  case inr.inl => exact execCkfill_eq_next.2 (.inr (.inl ⟨hidle, hlen, rfl⟩))
  case inr.inr =>
    have hkept : (s.txbuf.write (s.txlen.toNat - 1) (bodyCksum body)).slice 1 (s.txlen.toNat - 2) = some body := by
      rw [← hbody]
      exact Memory.slice_congr fun i hi => Memory.read_write_other _ _ _ _ (by omega)
    refine execCkfill_eq_next.2 (.inr (.inr ⟨body, hidle, hlow, hhigh, hkept, ?_⟩))
    simp only [State.returning, State.storeTx, Memory.write_write]

/-- Settles O11: the body leaves out both ends, and CKFILL is idempotent. -/
theorem checksumIsRecomputable : Obligations.ChecksumIsRecomputable := by
  refine ⟨fun a a' k k' body => ?ends, fun s t h => execCkfill_idem h⟩
  case ends => rw [cksum, cksum, bodyOf_cons_append, bodyOf_cons_append]

/-- Settles O14: the rows of `execCkfill_eq_next`, and the stop. -/
theorem ckfillWritesTheTrailer : Obligations.CkfillWritesTheTrailer := by
  refine fun s => ⟨fun body hidle hlow hhigh hbody => ?performed, fun hbusy => ?busy, fun hidle hlen => ?badLength,
    exec_ckfill_unwritten⟩
  case performed =>
    exact ⟨_, execCkfill_eq_next.2 (.inr (.inr ⟨body, hidle, hlow, hhigh, hbody, rfl⟩)),
      Memory.read_write_same _ _ _, fun a ha => Memory.read_write_other _ _ _ _ ha⟩
  case busy => exact execCkfill_eq_next.2 (.inl ⟨hbusy, rfl⟩)
  case badLength => exact execCkfill_eq_next.2 (.inr (.inl ⟨hidle, by omega, rfl⟩))

/-! ### CKVERIFY -/

section
variable {s : State} {n : Nat}

theorem exec_ckverify {f : List Byte} (hidle : s.seq = .idle) (hdone : s.done = true) (hlow : 2 ≤ n)
    (hframe : hostRxFrame s n = some f) : exec (.ckverify n) s = .next { s with ret := .flag (isCkOk f) } := by
  change execCkverify n s = _
  unfold execCkverify
  rw [if_neg (by simp [hidle]), if_neg (by simp [hdone]), if_neg (by omega), hframe]
  rfl

theorem exec_ckverify_refused (h : ¬(s.seq = .idle ∧ s.done = true ∧ 2 ≤ n ∧ n ≤ s.rxcnt.toNat)) :
    ∃ r, exec (.ckverify n) s = .next (s.refusing r) := by
  change ∃ r, execCkverify n s = _
  unfold execCkverify
  split
  · exact ⟨.busy, rfl⟩
  · next hbusy =>
    split
    · exact ⟨.notDone, rfl⟩
    · next hdone =>
      split
      · exact ⟨.badIndex, rfl⟩
      · next hlow =>
        split
        · next hframe =>
          exact absurd ⟨by simpa using hbusy, by simpa using hdone, by omega, (hostRxFrame_eq_some.1 hframe).1⟩ h
        · exact ⟨.badIndex, rfl⟩

end

/-- R125: verification compares the last byte. -/
theorem isCkOk_eq_decide {f : List Byte} {k : Byte} (hlen : 2 ≤ f.length) (hk : f[f.length - 1]? = some k) :
    isCkOk f = decide (k = cksum f) := by
  simp [isCkOk, byteAt, hlen, hk, beq_eq_decide]

/-- Settles O15: the verdict of the check step is `CkOk` of the response, and so is CKVERIFY's answer. -/
theorem ckverifyComparesTheTrailer : Obligations.CkverifyComparesTheTrailer := by
  refine ⟨fun s n f k hidle hdone hlow hcnt hf hk => ?performed, fun s n h => exec_ckverify_refused h,
    fun s t hlow h => ?afterCheck⟩
  case performed =>
    have hlen : f.length = n := Memory.slice_length hf
    subst hlen
    rw [exec_ckverify hidle hdone hlow (hostRxFrame_eq_some.2 ⟨hcnt, hf⟩), isCkOk_eq_decide hlow hk]
  case afterCheck =>
    obtain ⟨f, -, hfull, hf, rfl⟩ := execCheck_eq_next.1 h
    set t := (s.checked f).complete (checkVerdict f)
    have hresult : t.result = checkVerdict f := rfl
    have hframe : hostRxFrame t s.rxlen.toNat = some f := hostRxFrame_eq_some.2 ⟨hfull ▸ le_rfl, hf⟩
    rw [exec_ckverify (s := t) rfl rfl hlow hframe, hresult, checkVerdict]
    cases isCkOk f
    · exact ⟨.inr rfl, rfl⟩
    · exact ⟨.inl rfl, rfl⟩

end Sys2Proof.Machine

/-! ## Transaction: START (`spec/42_transaction.md` R163 to R165) -/

namespace Sys2Proof.Machine

/-- Settles O23: the last row of `execStart_eq_next`, and the stop. -/
theorem startAccepted : Obligations.StartAccepted := by
  intro s hidle hopen htxlow htxhigh hrxlow hrxhigh
  have hlegal : legalLengths s = true := (legalLengths_eq_true s).2 ⟨htxlow, htxhigh, hrxlow, hrxhigh⟩
  refine ⟨fun bytes hbytes => ?accepted, fun hnone => ?unwritten⟩
  case accepted => exact execStart_eq_next.2 (.inr (.inr (.inr ⟨bytes, hidle, hopen, hlegal, hbytes, rfl⟩)))
  case unwritten =>
    have hfree : busy s = false := (busy_eq_false s).2 hidle
    change execStart s = _
    simp [execStart, hfree, hopen, hlegal, hnone]

/-- R164 leaves the idle engine idle. -/
theorem State.startFailed_returning {s : State} (hidle : s.seq = .idle) (c : Cause) :
    (s.startFailed c).returning .performed = { s with
      done := true, result := .failProtocol, errcode := 0#8, cause := c, somOk := false, lenOk := false, ckOk := false,
      ckCalc := 0#8, attempt := 0#2, txidx := 0#9, rxcnt := 0#9, ret := .performed } := by
  rw [hidle]
  rfl

/-- Settles O24: the two failing rows of `execStart_eq_next`. -/
theorem startFailsAtOnce : Obligations.StartFailsAtOnce := by
  intro s hidle hrefused
  by_cases hopen : s.chanOpen = true
  · have hillegal : legalLengths s = false :=
      Bool.eq_false_iff.2 fun hlegal => hrefused ⟨hopen, (legalLengths_eq_true s).1 hlegal⟩
    rw [if_pos hopen, ← State.startFailed_returning hidle]
    exact execStart_eq_next.2 (.inr (.inr (.inl ⟨hidle, hopen, hillegal, rfl⟩)))
  · rw [if_neg hopen, ← State.startFailed_returning hidle]
    exact execStart_eq_next.2 (.inr (.inl ⟨hidle, Bool.eq_false_iff.2 hopen, rfl⟩))

/-- Settles O25: the first row of `execStart_eq_next`. -/
theorem startWhileBusyChangesNothing : Obligations.StartWhileBusyChangesNothing :=
  fun _ hbusy => execStart_eq_next.2 (.inl ⟨hbusy, rfl⟩)

end Sys2Proof.Machine

/-! ## Transaction: the sequencer steps (`spec/42_transaction.md` R167 to R177) -/

namespace Sys2Proof.Machine

/-! ### The write and the read phase -/

/-- A counter one up, as the model writes it and as the rules do. -/
theorem ofNat_toNat_succ (x : Len) : BitVec.ofNat 9 (x.toNat + 1) = x + 1#9 := by
  apply BitVec.eq_of_toNat_eq
  simp [BitVec.toNat_add]

/-- Settles O26: the byte presented is sent and counted. -/
theorem txAcceptCountsTheByte : Obligations.TxAcceptCountsTheByte := by
  intro s b hseq hmore hb
  refine execTxAccept_eq_next.2 ⟨b, hseq, hmore, hb, ?_⟩
  rw [State.sent, ofNat_toNat_succ]

/-- Settles O27: the last byte sent, `TXIDX` has reached `TXLEN`. -/
theorem lastAcceptBeginsTheRead : Obligations.LastAcceptBeginsTheRead :=
  fun _ b hseq hlast hb => execTxAcceptLast_eq_next.2 ⟨b, hseq, hlast, hb, (State.sent_enterRead b hlast).symm⟩

/-- Settles O29: the model's own update of the buffer is the one stated. -/
theorem rxByteIsStored : Obligations.RxByteIsStored := by
  intro s b hseq hcell
  refine ⟨s.rxbuf.write s.rxcnt.toNat b, execRxByte_eq_next.2 ⟨hseq, by omega, ?state⟩,
    Memory.read_write_same _ _ _, fun a ha => Memory.read_write_other _ _ _ _ ha⟩
  case state =>
    rw [State.received, ofNat_toNat_succ, hseq]
    rfl

/-! ### Failed attempts -/

/-- R175: attempts 1 and 2 fail into the delay, attempt 3 fails the transaction. -/
theorem attemptFailed_answers {a : Answer} {s : State} {c : Cause} {bytes : List Byte}
    (h : a = .next (s.attemptFailed c bytes)) :
    (s.attempt.toNat < 3 → a = .next { s with
      cause := c, trace := s.trace ++ [.rx s.attempt.toNat bytes], seq := .delay, timer := Config.tDly }) ∧
    (s.attempt.toNat = 3 → a = .next { s with
      cause := c, trace := s.trace ++ [.rx 3 bytes], result := .failTransport, done := true, seq := .idle }) := by
  refine ⟨fun hretry => ?_, fun hlast => ?_⟩
  · rw [h, State.attemptFailed_retry c bytes hretry]
  · rw [h, State.attemptFailed_last c bytes hlast.not_lt, hlast]

/-- Settles O28: `fail_attempt(WRITE_ERR)` with the error latched. -/
theorem txErrorEndsTheAttempt : Obligations.TxErrorEndsTheAttempt :=
  fun s e bytes hseq hbytes =>
    attemptFailed_answers (s := s.putErrcode e) (execTxError_eq_next.2 ⟨bytes, hseq, hbytes, rfl⟩)

/-- Settles O30: `fail_attempt(READ_ERR)` with the error latched. -/
theorem rxErrorEndsTheAttempt : Obligations.RxErrorEndsTheAttempt :=
  fun s e bytes hseq hbytes =>
    attemptFailed_answers (s := s.putErrcode e) (execRxError_eq_next.2 ⟨bytes, hseq, hbytes, rfl⟩)

/-! ### Ticks -/

/-- Settles O31: above 1 the tick is counted, at 1 `fail_attempt(TIMEOUT)` is run with `TIMER` at 0. -/
theorem tickInReadCountsOrTimesOut : Obligations.TickInReadCountsOrTimesOut :=
  fun s hseq => ⟨fun hmore => execTickRead_eq_next.2 (.inl ⟨hseq, hmore, rfl⟩), fun bytes hlast hbytes =>
    attemptFailed_answers (s := s.putTimer 0#16) (execTickRead_eq_next.2 (.inr ⟨bytes, hseq, hlast, hbytes, rfl⟩))⟩

/-- Settles O32: above 1 the tick is counted, at 1 `begin_attempt()` is run with `TIMER` at 0. -/
theorem tickInDelayCountsOrBegins : Obligations.TickInDelayCountsOrBegins :=
  fun _ hseq => ⟨fun hmore => execTickDelay_eq_next.2 (.inl ⟨hseq, hmore, rfl⟩),
    fun bytes hlast hbytes => execTickDelay_eq_next.2 (.inr ⟨bytes, hseq, hlast, hbytes, rfl⟩)⟩

/-! ### The check -/

theorem isSomOk_eq_true_iff {f : List Byte} : isSomOk f = true ↔ f[0]? = some Config.som := by
  simp [isSomOk, byteAt]

theorem isLenOk_eq_true_iff {f : List Byte} :
    isLenOk f = true ↔ ∃ l, f[1]? = some l ∧ (l.toNat : Int) = (f.length : Int) - 3 := by
  rw [isLenOk, byteAt]
  cases f[1]? with
  | none => simp
  | some l =>
    simp only [decide_eq_true_eq, Option.some.injEq, exists_eq_left']
    omega

theorem isCkOk_eq_true_iff_trailer {f : List Byte} (hlen : 2 ≤ f.length) :
    isCkOk f = true ↔ f[f.length - 1]? = some (cksum f) := by
  simp [isCkOk, byteAt, hlen]

/-- Settles O33: the three flags of the response are those of R125. -/
theorem checkDecidesByTheTrailer : Obligations.CheckDecidesByTheTrailer := by
  intro s f hseq hfull hlow hf
  have hlen : f.length = s.rxlen.toNat := Memory.slice_length hf
  rw [← hlen] at hlow ⊢
  exact ⟨isSomOk f, isLenOk f, isCkOk f, execCheck_eq_next.2 ⟨f, hseq, hfull, hf, rfl⟩, isSomOk_eq_true_iff,
    isLenOk_eq_true_iff, isCkOk_eq_true_iff_trailer hlow⟩

/-! ### Events that are not enabled -/

/-- Settles O34: each step's first test is its sequencer state. -/
theorem disabledEventsAreNoStep : Obligations.DisabledEventsAreNoStep := by
  refine ⟨fun s hseq => ?tick, fun s e hseq => ⟨?accept, ?last, if_neg hseq⟩,
    fun s b e hseq => ⟨if_neg hseq, if_neg hseq⟩, fun s hseq => ?check⟩
  case tick => exact execTickIdle_eq_next.2 (by rcases hseq with h | h | h <;> simp [h])
  case accept => exact if_neg fun ⟨h, _⟩ => hseq h
  case last => exact if_neg fun ⟨h, _⟩ => hseq h
  case check => exact if_neg fun ⟨h, _⟩ => hseq h

end Sys2Proof.Machine

/-! ## Transaction: the trace (`spec/42_transaction.md` R166, R175, R179) -/

namespace Sys2Proof.Machine

section
variable {before : List TraceRecord} {req bytes : List Byte} {s t : State}

/-- Between attempts and after the last one every attempt is finished. -/
theorem traceSince_iff_finished (hseq : s.seq = .idle ∨ s.seq = .delay) :
    TraceSince before req s ↔ ∃ r, s.trace = before ++ r ∧ Rounds req s.attempt.toNat r := by
  unfold TraceSince
  rcases hseq with h | h <;> simp only [h]

/-- During an attempt the last record is the one that opened it. -/
theorem traceSince_iff_running (hseq : s.seq ≠ .idle ∧ s.seq ≠ .delay) :
    TraceSince before req s ↔
      ∃ r n, s.trace = before ++ r ++ [.tx (n + 1) req] ∧ s.attempt.toNat = n + 1 ∧ Rounds req n r := by
  obtain ⟨hidle, hdelay⟩ := hseq
  unfold TraceSince
  cases hs : s.seq with
  | idle => exact absurd hs hidle
  | delay => exact absurd hs hdelay
  | write | read | check => rfl

/-- A step within a phase that traces nothing. -/
theorem TraceSince.of_unchanged (h : TraceSince before req s) (hseq : t.seq = s.seq) (htrace : t.trace = s.trace)
    (hattempt : t.attempt = s.attempt) : TraceSince before req t := by
  unfold TraceSince at h ⊢
  rwa [hseq, htrace, hattempt]

/-- A step within an attempt that traces nothing. -/
theorem TraceSince.of_running (h : TraceSince before req s) (hs : s.seq ≠ .idle ∧ s.seq ≠ .delay)
    (ht : t.seq ≠ .idle ∧ t.seq ≠ .delay) (htrace : t.trace = s.trace) (hattempt : t.attempt = s.attempt) :
    TraceSince before req t := by
  rw [traceSince_iff_running ht, htrace, hattempt]
  exact (traceSince_iff_running hs).1 h

/-- An attempt ends with the record of what it received (R174, R175). -/
theorem TraceSince.finished (h : TraceSince before req s) (hs : s.seq ≠ .idle ∧ s.seq ≠ .delay)
    (ht : t.seq = .idle ∨ t.seq = .delay) (htrace : t.trace = s.trace ++ [.rx s.attempt.toNat bytes])
    (hattempt : t.attempt = s.attempt) : TraceSince before req t := by
  obtain ⟨r, n, hopen, hn, hr⟩ := (traceSince_iff_running hs).1 h
  rw [traceSince_iff_finished ht, htrace, hattempt, hopen, hn]
  exact ⟨_, by simp, hr.succ bytes⟩

/-- An attempt begins with the record of what it sends (R166). -/
theorem TraceSince.begun (h : TraceSince before req s) (hs : s.seq = .idle ∨ s.seq = .delay)
    (hattempt : s.attempt.toNat < 3) : TraceSince before req (s.begun req) := by
  obtain ⟨r, hclosed, hr⟩ := (traceSince_iff_finished hs).1 h
  have hnext : (s.attempt + 1#2).toNat = s.attempt.toNat + 1 := by bv_omega
  exact (traceSince_iff_running (by simp)).2 ⟨r, _, by rw [State.begun_trace, hclosed], hnext, hr⟩

/-- A START that leads into `WRITE` was accepted; no other row of R163 to R165 does. -/
theorem execStart_accepted (hidle : s.seq = .idle) (h : execStart s = .next t) (hseq : t.seq = .write) :
    ∃ bytes, legalLengths s = true ∧ s.txbuf.slice 0 s.txlen.toNat = some bytes ∧
      t = (s.accepted.begun bytes).returning .performed := by
  rcases execStart_eq_next.1 h with ⟨hbusy, -⟩ | ⟨-, -, rfl⟩ | ⟨-, -, -, rfl⟩ | ⟨bytes, -, -, hlegal, hbytes, rfl⟩
  · exact absurd hidle hbusy
  · cases hseq
  · cases hseq
  · exact ⟨bytes, hlegal, hbytes, rfl⟩

/-- With START accepted no attempt has been made, and attempt 1 begins. -/
theorem traceSince_started (hidle : s.seq = .idle) :
    TraceSince s.trace req ((s.accepted.begun req).returning .performed) := by
  have hempty : TraceSince s.trace req s.accepted := by
    have hrest : s.accepted.seq = .idle := hidle
    exact (traceSince_iff_finished (.inl hrest)).2 ⟨[], by simp, .zero⟩
  exact (hempty.begun (.inl hidle) (by decide : (0#2).toNat < 3)).of_unchanged rfl rfl rfl

theorem Prepared.idle (h : Prepared s t) : s.seq = .idle := by
  obtain ⟨_, _, _, _, hidle, _⟩ := h
  exact hidle

/-- Every effect on a running transaction keeps the trace of its attempts. -/
theorem TraceSince.effect (h : TraceSince before req s) (heff : Effect s t) (hinv : Inv s) (hbusy : s.seq ≠ .idle)
    (hreq : s.txbuf.slice 0 s.txlen.toNat = some req) : TraceSince before req t := by
  cases heff with
  | outside => exact h.of_unchanged rfl rfl rfl
  | prepared prep => exact absurd prep.idle hbusy
  | startFailed prep => exact absurd prep.idle hbusy
  | started prep => exact absurd prep.idle hbusy
  | sent => exact h.of_unchanged rfl rfl rfl
  | sentLast b seq => exact h.of_running (by simp [seq]) (by simp) rfl rfl
  | received b seq =>
    exact h.of_running (by simp [seq]) (by rw [State.received_seq, seq]; split <;> simp) rfl rfl
  | ticked => exact h.of_unchanged rfl rfl rfl
  | @failed c bytes e n seq _ _ =>
    have hrunning : s.seq ≠ .idle ∧ s.seq ≠ .delay := by rcases seq with seq | seq <;> simp [seq]
    exact h.finished hrunning (by rw [State.attemptFailed_seq]; split <;> simp) (State.attemptFailed_trace _ _ _)
      (State.attemptFailed_attempt _ _ _)
  | begun seq command =>
    obtain rfl : req = _ := Option.some.inj (hreq.symm.trans command)
    obtain ⟨hattempt, _⟩ := hinv.delaying seq
    have hwaiting : TraceSince before req (s.putTimer 0#16) := h.of_unchanged rfl rfl rfl
    exact hwaiting.begun (.inr seq) hattempt
  | checked seq => exact h.finished (by simp [seq]) (.inl rfl) rfl rfl

end

/-- Settles O55: START opens attempt 1 over an empty list of rounds, and every effect on a running transaction
closes a round, opens the next, or traces nothing. -/
theorem traceAlternates : Obligations.TraceAlternates := by
  refine ⟨fun s t hidle h hwrite => ?started, fun before req s t hinv hbusy hreq htrace hreset h => ?kept⟩
  case started =>
    obtain ⟨bytes, -, hbytes, rfl⟩ := execStart_accepted hidle h hwrite
    exact ⟨bytes, hbytes, traceSince_started hidle⟩
  case kept =>
    rcases step_effect h with ⟨hr, _⟩ | ⟨rest, heff⟩
    · exact absurd hr (by simp [hreset])
    · have htaking : TraceSince before req (s.taking rest) := htrace.of_unchanged rfl rfl rfl
      exact htaking.effect heff (hinv.outside s.chanOpen s.wire s.session s.ret rest) hbusy hreq

end Sys2Proof.Machine

/-! ## Transaction: every phase moves, and a write waits for the channel (`spec/42_transaction.md` R161, R177, R180) -/

namespace Sys2Proof

/-- The row of TxError is selected by that event alone (R162). -/
theorem event_of_decodeEvent_txError {c : RowContext} {e : Event} {x : ChanErr}
    (h : decodeEvent c e = .ok (.txError x)) : e = .txError x := by
  cases e with
  | txError y => cases h; rfl
  | host w =>
    simp only [decodeEvent] at h
    split at h
    · next hw =>
      cases h
      cases decodeHost_number hw
    · cases h
  | frame f =>
    have hf : decodeFrame f = .ok (.txError x) := h
    rcases decodeFrame_eq_ok hf with hi | hi | hi | hi <;> cases hi
  | session call => cases call <;> cases h
  | txAccept =>
    have hrow : (if c.lastByte then Instr.txAcceptLast else .txAccept) = .txError x := Except.ok.inj h
    split at hrow <;> cases hrow
  | tick =>
    have hrow : tickRow c.seq = .txError x := Except.ok.inj h
    cases hc : c.seq <;> rw [hc] at hrow <;> cases hrow
  | _ => cases h

end Sys2Proof

namespace Sys2Proof.Machine

/-- Settles O48: in `WRITE` an instruction that is not one of the channel's answers only answers the host, each of
those is selected by its own event alone, and no input but reset touches the engine. -/
theorem onlyTheChannelEndsAWrite : Obligations.OnlyTheChannelEndsAWrite := by
  intro s t hseq h hmoved
  have hkept (hs : t.seq = s.seq) (hi : t.txidx = s.txidx) : False := by simp [hs, hi, hseq] at hmoved
  rcases step_eq_next h with
    ⟨_, hcheck, _⟩ |
      ⟨e, rest, hq, ⟨i, hd, hrun⟩ | ⟨rfl, -⟩ | ⟨level, -, rfl⟩ | ⟨op, -, rfl⟩ | ⟨n, v, -, rfl⟩⟩
  · cases hseq.symm.trans hcheck
  · rw [hq, List.head?_cons]
    by_cases haccept : i = .txAccept ∨ i = .txAcceptLast
    · exact .inl (congrArg some (event_of_decodeEvent_txAccept hd haccept))
    by_cases herror : ∃ x, i = .txError x
    · obtain ⟨x, rfl⟩ := herror
      exact .inr (.inl ⟨x, congrArg some (event_of_decodeEvent_txError hd)⟩)
    · obtain ⟨hmore, hlast⟩ := not_or.1 haccept
      obtain ⟨_, _, rfl⟩ := exec_onlyAnswers_in_write (s := s.taking rest) hseq hmore hlast (not_exists.1 herror) hrun
      exact (hkept rfl rfl).elim
  · exact .inr (.inr (by simp [nextIsReset, hq]))
  · exact (hkept rfl rfl).elim
  · exact (hkept rfl rfl).elim
  · obtain ⟨_, _, _, hw, _⟩ := writeRegister_frame (s.taking rest) n v
    exact (hkept (by rw [hw]; rfl) (by rw [hw]; rfl)).elim

/-- Settles O54: the events of each phase are enabled in it, and an enabled step answers in a good state. -/
theorem everyPhaseHasAStep : Obligations.EveryPhaseHasAStep := by
  intro s e b hinv
  refine ⟨fun hwrite => ⟨hinv.execTxError_answers e hwrite, ?accept⟩,
    fun hread => ⟨hinv.execRxByte_answers b hread, hinv.execRxError_answers e hread, hinv.execTickRead_answers hread⟩,
    fun hcheck => ?check, hinv.execTickDelay_answers⟩
  case accept =>
    obtain ⟨hidx, -⟩ := hinv.writing hwrite
    rcases (Nat.succ_le_of_lt hidx).lt_or_eq with hmore | hlast
    · exact .inl (hinv.execTxAccept_answers ⟨hwrite, hmore⟩)
    · exact .inr (hinv.execTxAcceptLast_answers ⟨hwrite, hlast⟩)
  case check =>
    obtain ⟨-, hfull⟩ := hinv.checking hcheck
    exact hinv.execCheck_answers ⟨hcheck, hfull⟩

end Sys2Proof.Machine

/-! ## Transaction: how many ticks it can count (`spec/42_transaction.md` R180) -/

namespace Sys2Proof.Machine

/-- The ticks of the attempts after attempt `a`, each a full delay and a full read. -/
def retryTicks (a : Nat) : Nat := (3 - a) * (Config.tRd.toNat + Config.tDly.toNat)

/-- What `READ` and `DELAY` can still count before the transaction ends. -/
def ticksLeft (s : State) : Nat :=
  match s.seq with
  | .idle => 0
  | .write => Config.tRd.toNat + retryTicks s.attempt.toNat
  | .read => s.timer.toNat + retryTicks s.attempt.toNat
  | .check => 0
  | .delay => s.timer.toNat + Config.tRd.toNat + retryTicks (s.attempt.toNat + 1)

theorem retryTicks_of_lt {a : Nat} (h : a < 3) :
    retryTicks a = Config.tRd.toNat + Config.tDly.toNat + retryTicks (a + 1) := by
  unfold retryTicks
  rw [show 3 - a = (3 - (a + 1)) + 1 by omega, Nat.succ_mul, Nat.add_comm]

section
variable {s t : State}

theorem ticksLeft_idle (h : s.seq = .idle) : ticksLeft s = 0 := by
  simp only [ticksLeft, h]

theorem ticksLeft_write (h : s.seq = .write) : ticksLeft s = Config.tRd.toNat + retryTicks s.attempt.toNat := by
  simp only [ticksLeft, h]

theorem ticksLeft_read (h : s.seq = .read) : ticksLeft s = s.timer.toNat + retryTicks s.attempt.toNat := by
  simp only [ticksLeft, h]

theorem ticksLeft_check (h : s.seq = .check) : ticksLeft s = 0 := by
  simp only [ticksLeft, h]

theorem ticksLeft_delay (h : s.seq = .delay) :
    ticksLeft s = s.timer.toNat + Config.tRd.toNat + retryTicks (s.attempt.toNat + 1) := by
  simp only [ticksLeft, h]

theorem ticksLeft_congr (hseq : t.seq = s.seq) (htimer : t.timer = s.timer) (hattempt : t.attempt = s.attempt) :
    ticksLeft t = ticksLeft s := by
  unfold ticksLeft
  rw [hseq, htimer, hattempt]

/-! ### What each change of phase leaves -/

theorem ticksLeft_ticked (hseq : s.seq = .read ∨ s.seq = .delay) (hmore : 1 < s.timer.toNat) :
    ticksLeft (s.putTimer (s.timer - 1#16)) + 1 = ticksLeft s := by
  have htimer : (s.timer - 1#16).toNat = s.timer.toNat - 1 := by bv_omega
  rcases hseq with hseq | hseq
  · rw [ticksLeft_read hseq, ticksLeft_read (s := s.putTimer (s.timer - 1#16)) hseq,
      State.putTimer_timer, htimer, State.putTimer_attempt]
    omega
  · rw [ticksLeft_delay hseq, ticksLeft_delay (s := s.putTimer (s.timer - 1#16)) hseq,
      State.putTimer_timer, htimer, State.putTimer_attempt]
    omega

/-- A failed attempt leaves the attempts after it. -/
theorem ticksLeft_attemptFailed (s : State) (c : Cause) (bytes : List Byte) :
    ticksLeft (s.attemptFailed c bytes) ≤ retryTicks s.attempt.toNat := by
  by_cases hlast : s.attempt.toNat < 3
  · rw [State.attemptFailed_retry c bytes hlast, ticksLeft_delay rfl, retryTicks_of_lt hlast]
    simp only; omega
  · rw [State.attemptFailed_last c bytes hlast, ticksLeft_idle rfl]
    exact Nat.zero_le _

/-- A delay that is over has counted its last tick. -/
theorem Inv.ticksLeft_retried (h : Inv s) (hseq : s.seq = .delay) (bytes : List Byte) :
    ticksLeft ((s.putTimer 0#16).begun bytes) + 1 ≤ ticksLeft s := by
  obtain ⟨hattempt, -, htimer, -⟩ := h.delaying hseq
  have hnext : (s.attempt + 1#2).toNat = s.attempt.toNat + 1 := by bv_omega
  rw [ticksLeft_delay hseq, ticksLeft_write rfl, State.begun_attempt, State.putTimer_attempt, hnext]
  omega

/-- No effect on a running transaction gives back a tick. -/
theorem Effect.ticksLeft_le (h : Effect s t) (hinv : Inv s) (hbusy : s.seq ≠ .idle) : ticksLeft t ≤ ticksLeft s := by
  cases h with
  | outside => exact (ticksLeft_congr rfl rfl rfl).le
  | prepared prep => exact absurd prep.idle hbusy
  | startFailed prep => exact absurd prep.idle hbusy
  | started prep => exact absurd prep.idle hbusy
  | sent b => exact (ticksLeft_congr rfl rfl rfl).le
  | sentLast b seq => exact ((ticksLeft_read rfl).trans (ticksLeft_write seq).symm).le
  | received b seq =>
    by_cases hfull : s.rxcnt.toNat + 1 = s.rxlen.toNat
    · rw [ticksLeft_check (by simp [hfull])]
      exact Nat.zero_le _
    · have hread : (s.received b).seq = s.seq := if_neg hfull
      exact (ticksLeft_congr hread rfl rfl).le
  | ticked seq more => exact Nat.le_of_succ_le (ticksLeft_ticked seq more).le
  | @failed c bytes e n seq _ _ =>
    have hfailed := ticksLeft_attemptFailed ((s.putErrcode e).putTimer n) c bytes
    have hopen : retryTicks s.attempt.toNat ≤ ticksLeft s := by
      rcases seq with seq | seq
      · rw [ticksLeft_write seq]; exact Nat.le_add_left _ _
      · rw [ticksLeft_read seq]; exact Nat.le_add_left _ _
    exact hfailed.trans hopen
  | begun seq => exact Nat.le_of_succ_le (hinv.ticksLeft_retried seq _)
  | checked => rw [ticksLeft_idle rfl]; exact Nat.zero_le _

/-! ### One step, and a run -/

theorem countsTick_eq_true : countsTick s = true ↔
    (s.seq = .read ∨ s.seq = .delay) ∧ s.schedule.head? = some .tick := by
  simp [countsTick]

/-- A tick that is counted comes off what is left. -/
theorem Inv.ticksLeft_counted (hinv : Inv s) (hcount : countsTick s = true) (h : step s = .next t) :
    ticksLeft t + 1 ≤ ticksLeft s := by
  obtain ⟨hseq, hhead⟩ := countsTick_eq_true.1 hcount
  obtain ⟨rest, hq⟩ := List.head?_eq_some_iff.1 hhead
  have htaking : Inv (s.taking rest) := hinv.outside s.chanOpen s.wire s.session s.ret rest
  rw [step_run (i := tickRow s.seq) hq rfl] at h
  rcases hseq with hseq | hseq
  · rw [hseq] at h
    rcases execTickRead_eq_next.1 h with ⟨-, hmore, rfl⟩ | ⟨bytes, -, -, -, rfl⟩
    · exact (ticksLeft_ticked (s := s.taking rest) (.inl hseq) hmore).le
    · obtain ⟨-, -, htimer, -⟩ := hinv.reading hseq
      have hfailed := ticksLeft_attemptFailed ((s.taking rest).putTimer 0#16) .timeout bytes
      rw [State.putTimer_attempt, State.taking_attempt] at hfailed
      rw [ticksLeft_read hseq]
      omega
  · rw [hseq] at h
    rcases execTickDelay_eq_next.1 h with ⟨-, hmore, rfl⟩ | ⟨bytes, -, -, -, rfl⟩
    · exact (ticksLeft_ticked (s := s.taking rest) (.inr hseq) hmore).le
    · exact htaking.ticksLeft_retried hseq bytes

/-- One step of a running transaction pays for the tick it counts. -/
theorem Inv.ticksLeft_step (hinv : Inv s) (hbusy : s.seq ≠ .idle) (h : step s = .next t) :
    (if countsTick s then 1 else 0) + ticksLeft t ≤ ticksLeft s := by
  split
  · next hcount =>
    rw [Nat.add_comm]
    exact hinv.ticksLeft_counted hcount h
  · rw [Nat.zero_add]
    rcases step_effect h with ⟨-, rest, rfl⟩ | ⟨rest, heff⟩
    · rw [ticksLeft_idle rfl]
      exact Nat.zero_le _
    · exact heff.ticksLeft_le (hinv.outside s.chanOpen s.wire s.session s.ret rest) hbusy

/-- A run counts at most what is left. -/
theorem Inv.ticksServed_le (hinv : Inv s) (k : Nat) : ticksServed k s ≤ ticksLeft s := by
  induction k generalizing s with
  | zero => exact Nat.zero_le _
  | succ k ih =>
    rw [ticksServed]
    split
    · exact Nat.zero_le _
    · next hbusy =>
      cases h : step s with
      | next t =>
        have hrest : ticksServed k t ≤ ticksLeft t := ih (stepKeepsTheInvariant s t hinv h)
        exact (Nat.add_le_add_left hrest _).trans (hinv.ticksLeft_step hbusy h)
      | fault r => exact Nat.zero_le _
      | refused r => exact Nat.zero_le _

end

/-- Settles O56: attempt 1 begins with one read and two retries left. -/
theorem ticksOfATransactionAreBounded : Obligations.TicksOfATransactionAreBounded := by
  intro s t k hinv hidle h hwrite
  have ht : Inv t := hinv.effect (execStart_effect h)
  obtain ⟨bytes, -, -, rfl⟩ := execStart_accepted hidle h hwrite
  have hserved := ht.ticksServed_le k
  have hleft : ticksLeft ((s.accepted.begun bytes).returning .performed) = Config.tRd.toNat + retryTicks 1 :=
    ticksLeft_write rfl
  rw [hleft, retryTicks] at hserved
  omega

end Sys2Proof.Machine

/-! ## Transaction: timeouts, delays and a silent device (`spec/42_transaction.md` R172, R173, R178, R179) -/

namespace Sys2Proof.Machine

/-! ### Ticks -/

/-- A run with one step more. -/
theorem run_snoc {k : Nat} {s u t : State} (hrun : run k s = .next u) (hstep : step u = .next t) :
    run (k + 1) s = .next t :=
  (run_add hrun).trans (run_of_next (k := 0) hstep)

section
variable {s : State} {bytes : List Byte} {rest : List Event} {n : Nat}

/-- A tick in `DELAY` that is not the last. -/
theorem step_tick_delay (hq : s.schedule = .tick :: rest) (hseq : s.seq = .delay) (hmore : 1 < s.timer.toNat) :
    step s = .next ((s.taking rest).putTimer (s.timer - 1#16)) := by
  have hd : decodeEvent (rowContext s) .tick = .ok .tickDelay := by simp [decodeEvent, rowContext, tickRow, hseq]
  exact (step_run hq hd).trans (execTickDelay_eq_next.2 (.inl ⟨hseq, hmore, rfl⟩))

/-- The last tick of a read ends the attempt (R172). -/
theorem step_tick_timeout (hq : s.schedule = .tick :: rest) (hseq : s.seq = .read) (hlast : s.timer.toNat ≤ 1)
    (hbytes : s.rxbuf.slice 0 s.rxcnt.toNat = some bytes) :
    step s = .next (((s.taking rest).putTimer 0#16).attemptFailed .timeout bytes) := by
  have hd : decodeEvent (rowContext s) .tick = .ok .tickRead := by simp [decodeEvent, rowContext, tickRow, hseq]
  exact (step_run hq hd).trans (execTickRead_eq_next.2 (.inr ⟨bytes, hseq, hlast, hbytes, rfl⟩))

/-- The last tick of a delay begins the next attempt (R173). -/
theorem step_tick_begins (hq : s.schedule = .tick :: rest) (hseq : s.seq = .delay) (hlast : s.timer.toNat ≤ 1)
    (hbytes : s.txbuf.slice 0 s.txlen.toNat = some bytes) :
    step s = .next (((s.taking rest).putTimer 0#16).begun bytes) := by
  have hd : decodeEvent (rowContext s) .tick = .ok .tickDelay := by simp [decodeEvent, rowContext, tickRow, hseq]
  exact (step_run hq hd).trans (execTickDelay_eq_next.2 (.inr ⟨bytes, hseq, hlast, hbytes, rfl⟩))

/-- All ticks of a delay but the last. -/
theorem run_delay_ticks (hseq : s.seq = .delay) (htimer : s.timer.toNat = n + 1)
    (hq : s.schedule = ticks n ++ rest) : run n s = .next ((s.taking rest).putTimer 1#16) := by
  induction n generalizing s with
  | zero =>
    have hone : s.timer = 1#16 := BitVec.eq_of_toNat_eq htimer
    rw [run_zero, ← hone]
    cases hq
    rfl
  | succ n ih =>
    have hleft : (s.timer - 1#16).toNat = n + 1 := by bv_omega
    have hstep := step_tick_delay (s := s) (rest := ticks n ++ rest) hq hseq (by omega)
    exact (run_of_next hstep).trans (ih (s := (s.taking _).putTimer _) hseq hleft rfl)

/-- A whole delay, and the beginning of the next attempt. -/
theorem run_delay (hseq : s.seq = .delay) (htimer : s.timer.toNat = n + 1)
    (hbytes : s.txbuf.slice 0 s.txlen.toNat = some bytes) (hq : s.schedule = ticks n ++ .tick :: rest) :
    run (n + 1) s = .next (((s.taking rest).putTimer 0#16).begun bytes) := by
  have hlast := step_tick_begins (s := (s.taking (.tick :: rest)).putTimer 1#16) rfl hseq le_rfl hbytes
  exact run_snoc (run_delay_ticks hseq htimer hq) hlast

theorem ticks_succ_append (n : Nat) (rest : List Event) : ticks (n + 1) ++ rest = ticks n ++ .tick :: rest := by
  simp [ticks, List.replicate_succ']

end

/-- Settles O59: `run_delay_ticks` up to the last tick, `run_delay` with it. -/
theorem delayLastsItsTicks : Obligations.DelayLastsItsTicks := by
  intro s req rest hinv hseq htimer hreq hq
  have hfull : s.timer.toNat = 100 + 1 := congrArg BitVec.toNat htimer
  have hq' : s.schedule = ticks 100 ++ .tick :: rest := hq.trans (ticks_succ_append 100 rest)
  obtain ⟨hattempt, -⟩ := hinv.delaying hseq
  have hnext : (s.attempt + 1#2).toNat = s.attempt.toNat + 1 := by bv_omega
  exact ⟨⟨_, run_delay_ticks hseq hfull hq', hseq⟩, _, run_delay hseq hfull hreq hq', rfl, hnext, rfl, rfl, rfl, rfl⟩

/-! ### An attempt that is not answered in time -/

/-- An attempt at its start, in a good state: the whole command `req` is still to be sent (R166). -/
structure AttemptBegins (req : List Byte) (s : State) : Prop where
  /-- The invariants. -/
  inv : Inv s
  /-- The write phase. -/
  seq : s.seq = .write
  /-- No byte has been sent. -/
  txidx : s.txidx = 0#9
  /-- The command. -/
  command : s.txbuf.slice 0 s.txlen.toNat = some req

/-- The state in which the last tick of a read is due that has brought the bytes `r`. -/
def State.tickDue (s : State) (req r : List Byte) (acc : Byte) (rest : List Event) : State :=
  ((s.commandSent req).answered r 1#16 acc).taking (.tick :: rest)

/-- The attempt after that tick (R172, R175). -/
def State.timedOut (s : State) (req r : List Byte) (acc : Byte) (rest : List Event) : State :=
  (((s.tickDue req r acc rest).taking rest).putTimer 0#16).attemptFailed .timeout r

section
variable {s : State} {req r : List Byte} {q rest : List Event} {acc : Byte}

theorem State.tickDue_rxcnt (hlen : r.length < s.rxlen.toNat) : (s.tickDue req r acc rest).rxcnt.toNat = r.length := by
  have hcells := s.rxlen.isLt
  have hcnt : (s.tickDue req r acc rest).rxcnt = BitVec.ofNat 9 (0 + r.length) := rfl
  rw [hcnt, BitVec.toNat_ofNat]
  omega

theorem State.tickDue_seq (hlen : r.length < s.rxlen.toNat) : (s.tickDue req r acc rest).seq = .read :=
  if_neg (by change 0 + r.length ≠ s.rxlen.toNat; omega)

/-! What a timed out attempt leaves: the command and what was received are on record, nothing else has moved. -/

theorem State.timedOut_attempt : (s.timedOut req r acc rest).attempt = s.attempt := State.attemptFailed_attempt _ _ _
theorem State.timedOut_cause : (s.timedOut req r acc rest).cause = .timeout := State.attemptFailed_cause _ _ _
theorem State.timedOut_errcode : (s.timedOut req r acc rest).errcode = s.errcode := State.attemptFailed_errcode _ _ _
theorem State.timedOut_rxcnt : (s.timedOut req r acc rest).rxcnt = BitVec.ofNat 9 (0 + r.length) :=
  State.attemptFailed_rxcnt _ _ _
theorem State.timedOut_txbuf : (s.timedOut req r acc rest).txbuf = s.txbuf := State.attemptFailed_txbuf _ _ _
theorem State.timedOut_txlen : (s.timedOut req r acc rest).txlen = s.txlen := State.attemptFailed_txlen _ _ _
theorem State.timedOut_wire : (s.timedOut req r acc rest).wire = s.wire ++ req := State.attemptFailed_wire _ _ _
theorem State.timedOut_schedule : (s.timedOut req r acc rest).schedule = rest := State.attemptFailed_schedule _ _ _
theorem State.timedOut_trace : (s.timedOut req r acc rest).trace = s.trace ++ [.rx s.attempt.toNat r] :=
  State.attemptFailed_trace _ _ _

theorem State.timedOut_retry (h : s.attempt.toNat < 3) :
    (s.timedOut req r acc rest).seq = .delay ∧ (s.timedOut req r acc rest).timer = Config.tDly :=
  ⟨(State.attemptFailed_seq _ _ _).trans (if_pos h), (State.attemptFailed_timer _ _ _).trans (if_pos h)⟩

theorem State.timedOut_last (h : s.attempt.toNat = 3) :
    (s.timedOut req r acc rest).seq = .idle ∧ (s.timedOut req r acc rest).done = true ∧
      (s.timedOut req r acc rest).result = .failTransport :=
  have hlast : ¬s.attempt.toNat < 3 := h.not_lt
  ⟨(State.attemptFailed_seq _ _ _).trans (if_neg hlast), (State.attemptFailed_done _ _ _).trans (if_neg hlast),
    (State.attemptFailed_result _ _ _).trans (if_neg hlast)⟩

/-- Up to the last tick: the bytes are stored, the timer shows 1. -/
theorem AttemptBegins.run_to_tickDue (h : AttemptBegins req s) (hlen : r.length < s.rxlen.toNat)
    (hm : Merged (delivers r) (Config.tRd.toNat - 1) q)
    (hq : s.schedule = accepts s.txlen.toNat ++ (q ++ .tick :: rest)) :
    ∃ acc, run (s.txlen.toNat + q.length) s = .next (s.tickDue req r acc rest) := by
  have hrd := Config.one_le_tRd
  have hsent := h.inv.run_command h.seq h.txidx h.command hq
  have hread : ReadsOn ((s.commandSent req).taking (q ++ .tick :: rest)) r.length (Config.tRd.toNat - 1) :=
    (h.inv.commandSent_readsOn h.seq hlen.le (by omega)).taking _
  obtain ⟨timer, acc, hanswer, hcounted⟩ := run_answer hm hread rfl
  have htimer : timer.toNat + (Config.tRd.toNat - 1) = Config.tRd.toNat :=
    hcounted (by change 0 + r.length < s.rxlen.toNat; omega)
  obtain rfl : timer = 1#16 := BitVec.eq_of_toNat_eq (by change timer.toNat = 1; omega)
  exact ⟨acc, (run_add hsent).trans hanswer⟩

/-- The last tick finds the stored bytes and traces them. -/
theorem step_tickDue (hlen : r.length < s.rxlen.toNat) :
    step (s.tickDue req r acc rest) = .next (s.timedOut req r acc rest) := by
  refine step_tick_timeout rfl (State.tickDue_seq hlen) le_rfl ?_
  rw [State.tickDue_rxcnt hlen]
  exact Memory.slice_writeList r s.rxbuf 0

end

/-- Settles O58: `AttemptBegins.run_to_tickDue` up to the last tick, which ends the attempt. -/
theorem unansweredAttemptTimesOut : Obligations.UnansweredAttemptTimesOut := by
  intro s req r q rest hinv hseq hidx hreq hlen hm hq
  have hbegins : AttemptBegins req s := ⟨hinv, hseq, hidx, hreq⟩
  obtain ⟨acc, hdue⟩ := hbegins.run_to_tickDue hlen hm hq
  have hrun := run_snoc hdue (step_tickDue hlen)
  exact ⟨⟨_, hdue, State.tickDue_seq hlen, rfl, State.tickDue_rxcnt hlen⟩, _, hrun, State.timedOut_cause,
    State.timedOut_errcode, State.timedOut_attempt, State.timedOut_wire, State.timedOut_trace,
    State.timedOut_schedule, State.timedOut_retry, State.timedOut_last⟩

/-! ### The silent device -/

/-- Every state a run reaches from a good one is good. -/
theorem Inv.run {s t : State} {k : Nat} (h : Inv s) (hrun : run k s = .next t) : Inv t := by
  induction k generalizing s with
  | zero => cases hrun; exact h
  | succ k ih =>
    obtain ⟨u, hstep, hrest⟩ := run_succ_eq_next.1 hrun
    exact ih (stepKeepsTheInvariant s u h hstep) hrest

section
variable {s : State} {req : List Byte} {rest : List Event}

/-- An attempt that gets no byte, up to its timeout. -/
theorem AttemptBegins.run_silent (h : AttemptBegins req s)
    (hq : s.schedule = accepts s.txlen.toNat ++ (ticks Config.tRd.toNat ++ rest)) :
    ∃ acc, run (s.txlen.toNat + Config.tRd.toNat) s = .next (s.timedOut req [] acc rest) := by
  obtain ⟨hrx, -⟩ := (h.inv.inFlight_of_busy (by simp [h.seq])).rxlen_le
  have hlen : ([] : List Byte).length < s.rxlen.toNat := Nat.lt_of_lt_of_le Nat.two_pos hrx
  obtain ⟨n, hn⟩ : ∃ n, Config.tRd.toNat = n + 1 := Nat.exists_eq_add_of_le' Config.one_le_tRd
  have hm : Merged (delivers []) (Config.tRd.toNat - 1) (ticks n) := by
    rw [hn, ← List.append_nil (ticks n)]
    exact Merged.ticks_then n []
  rw [hn, ticks_succ_append] at hq
  obtain ⟨acc, hdue⟩ := h.run_to_tickDue hlen hm hq
  rw [show (ticks n).length = n from List.length_replicate] at hdue
  rw [hn]
  exact ⟨acc, run_snoc hdue (step_tickDue hlen)⟩

/-- An attempt 1 or 2 that gets no byte, and the delay after it, up to the next attempt. -/
theorem AttemptBegins.run_silent_retry (h : AttemptBegins req s) (hretry : s.attempt.toNat < 3)
    (hq : s.schedule = accepts s.txlen.toNat ++ (ticks Config.tRd.toNat ++ (ticks Config.tDly.toNat ++ rest))) :
    ∃ u, run (s.txlen.toNat + Config.tRd.toNat + Config.tDly.toNat) s = .next u ∧ AttemptBegins req u ∧
      u.attempt = s.attempt + 1#2 ∧ u.txlen = s.txlen ∧ u.wire = s.wire ++ req ∧ u.schedule = rest ∧
      u.trace = s.trace ++ [.rx s.attempt.toNat [], .tx (s.attempt.toNat + 1) req] := by
  obtain ⟨acc, hsilent⟩ := h.run_silent hq
  generalize hv : s.timedOut req [] acc (ticks Config.tDly.toNat ++ rest) = v at hsilent
  obtain ⟨hdelay, htimer⟩ : v.seq = .delay ∧ v.timer = Config.tDly := hv ▸ State.timedOut_retry hretry
  have hlen : v.txlen = s.txlen := hv ▸ State.timedOut_txlen
  have hwire : v.wire = s.wire ++ req := hv ▸ State.timedOut_wire
  have hattempt : v.attempt = s.attempt := hv ▸ State.timedOut_attempt
  have htrace : v.trace = s.trace ++ [.rx s.attempt.toNat []] := hv ▸ State.timedOut_trace
  have hcommand : v.txbuf.slice 0 v.txlen.toNat = some req := by
    rw [hlen, ← hv, State.timedOut_txbuf]
    exact h.command
  have hfull : v.timer.toNat = 100 + 1 := congrArg BitVec.toNat htimer
  have hq' : v.schedule = ticks 100 ++ .tick :: rest := hv ▸ State.timedOut_schedule.trans (ticks_succ_append 100 rest)
  have hrun := (run_add hsilent).trans (run_delay hdelay hfull hcommand hq')
  refine ⟨_, hrun, ⟨h.inv.run hrun, rfl, rfl, hcommand⟩, congrArg (· + 1#2) hattempt, hlen, hwire, rfl, ?trace⟩
  case trace =>
    rw [State.begun_trace, State.putTimer_trace, State.taking_trace, State.putTimer_attempt, State.taking_attempt,
      htrace, hattempt, List.append_assoc]
    rfl

end

/-- Settles O60: two silent attempts with their delays, and a third. -/
theorem silentDeviceFailsAfterThreeAttempts : Obligations.SilentDeviceFailsAfterThreeAttempts := by
  intro s req rest hinv hseq hattempt hidx hreq hq
  have hfirst : AttemptBegins req s := ⟨hinv, hseq, hidx, hreq⟩
  obtain ⟨u, hu, hsecond, hattempt₂, hlen₂, hwire₂, hq₂, htrace₂⟩ := hfirst.run_silent_retry (by simp [hattempt]) hq
  rw [hattempt] at hattempt₂ htrace₂
  rw [← hlen₂] at hq₂
  obtain ⟨v, hv, hthird, hattempt₃, hlen₃, hwire₃, hq₃, htrace₃⟩ :=
    hsecond.run_silent_retry (by simp [hattempt₂]) hq₂
  rw [hattempt₂] at hattempt₃ htrace₃
  rw [← hlen₃] at hq₃
  obtain ⟨acc, hw⟩ := hthird.run_silent hq₃
  obtain ⟨hidle, hdone, hresult⟩ : (v.timedOut req [] acc rest).seq = .idle ∧ _ :=
    State.timedOut_last (by simp [hattempt₃])
  have hsteps : 3 * (s.txlen.toNat + Config.tRd.toNat) + 2 * Config.tDly.toNat =
      (s.txlen.toNat + Config.tRd.toNat + Config.tDly.toNat) +
        ((u.txlen.toNat + Config.tRd.toNat + Config.tDly.toNat) + (v.txlen.toNat + Config.tRd.toNat)) := by
    rw [hlen₃, hlen₂]
    omega
  refine ⟨_, ?run, hidle, hdone, hresult, State.timedOut_cause, State.timedOut_attempt.trans hattempt₃,
    State.timedOut_rxcnt, ?wire, State.timedOut_schedule, ?trace⟩
  case run => rw [hsteps, run_add hu, run_add hv, hw]
  case wire => rw [State.timedOut_wire, hwire₃, hwire₂]
  case trace =>
    rw [State.timedOut_trace, htrace₃, htrace₂, hattempt₃]
    simp

end Sys2Proof.Machine

/-! ## Session operations: the stubs (`spec/43_session_commands.md` R218 to R223) -/

namespace Sys2Proof.Machine

/-- R223: what all five stubs do, once: the answer is reported, no field but the return line moves. -/
theorem unsupported_eq_next (s : State) : unsupported s = .next { s with ret := .unsupported } := rfl

/-- Settles O39: each of the five arms of `exec` is `unsupported`, whatever its operands. -/
theorem stubsTouchNothing : Obligations.StubsTouchNothing := by
  rintro s channel enabled period duty i (rfl | rfl | rfl | rfl | rfl)
  all_goals exact unsupported_eq_next s

end Sys2Proof.Machine

/-! ## Reset (`spec/70_reset_and_hazards.md` R280, R281) -/

namespace Sys2Proof.Machine

/-- R281, log 16: of a state with its event taken off, reset leaves only what is not the block's. -/
theorem State.resetBlock_taking (s : State) (rest : List Event) :
    (s.taking rest).resetBlock = { State.reset with
      chanOpen := s.chanOpen, wire := s.wire, session := s.session, schedule := rest } := rfl

/-- Settles O42: the step takes the input whatever the phase, and the block it leaves is the reset block. -/
theorem resetIsTakenInEveryState : Obligations.ResetIsTakenInEveryState := by
  intro s rest hq
  have htaken : step s = .next (s.taking rest).resetBlock := step_reset hq
  rw [htaken, State.resetBlock_taking]

end Sys2Proof.Machine
